-- ==== Sys2Proof/Word.lean ====
section
/-! DEFINITION. The words of the block: 32-bit registers and pixel words (R10, R21, R86), bytes (R14), colours (R14). -/

namespace Sys2Proof

/-- A host-visible register, a command word or a pixel word: `REGW` = 32 bits (R10, R21, R86). -/
abbrev Word := BitVec 32

/-- A `u8`: a colour channel, an alpha value or one byte of the tile memory (R14, R35). -/
abbrev Byte := BitVec 8

/-- A `Color`: "an immutable triple of 8-bit unsigned integers (red, green, blue)"; no alpha (R14). -/
structure Color where
  r : Byte
  g : Byte
  b : Byte
deriving DecidableEq, Repr

/-- The four disjoint address spaces of R50. -/
inductive Space where
  /-- the nine registers, by register number -/
  | reg
  /-- the input pixel memory, by pixel index -/
  | pin
  /-- the output pixel memory, by pixel index -/
  | pout
  /-- the tile memory, by byte index -/
  | tout
deriving DecidableEq, Repr

end Sys2Proof
end

