-- ==== Sys2Proof/Config.lean ====
section
/-! DEFINITION. What the document fixes (R9), what a platform fixes (R10, R38, R53), and the free values of storage that
nothing has written (R36, U6, U7). The palette, also a constant (R30), stands in Machine/Palette.lean (log 11). -/

namespace Sys2Proof

/-- The OPEN parameters of R10 and R53, taken as an argument by every operation that depends on one (R38: "Not state, but
parameters of the model"). `pmax` is the capacity of PIN and of POUT in pixels; the bases place the four windows of a
byte-addressed bus. -/
structure Platform where
  pmax : Nat
  regBase : Nat
  pinBase : Nat
  poutBase : Nat
  toutBase : Nat
deriving DecidableEq, Repr

namespace Config

/-- `NPAL` of R9: palette entries. -/
abbrev npal : Nat := 4
/-- `TILE` of R9: the edge of a tile in pixels. -/
abbrev tile : Nat := 8
/-- `ROWB` of R9: bytes per tile row, one of each plane. -/
abbrev rowb : Nat := 2
/-- `TILEB` of R9: bytes per tile. -/
abbrev tileb : Nat := 16
/-- The number of registers (R21). -/
abbrev nreg : Nat := 9

/-- PMAX − 1: OPEN (R10, D6). Nothing in Lean can evaluate it, so a statement about `platform` holds for every PMAX from
1 to 2^26 (log 4). -/
opaque pmaxLessOne : Fin (2 ^ 26)
/-- REG_BASE: OPEN (R53, D22). -/
opaque regBase : Nat
/-- PIN_BASE: OPEN (R53, D22). -/
opaque pinBase : Nat
/-- POUT_BASE: OPEN (R53, D22). -/
opaque poutBase : Nat
/-- TOUT_BASE: OPEN (R53, D22). -/
opaque toutBase : Nat

/-- The platform that the fixed-name `exec` and `step` run on: every parameter open (log 4, log 15). -/
def platform : Platform :=
  { pmax := pmaxLessOne.val + 1, regBase := regBase, pinBase := pinBase, poutBase := poutBase, toutBase := toutBase }

/-- What event number `serial` reads in element `i` of PIN where nothing has written it since reset: free
(U6, "any value"; log 5). -/
opaque unwrittenPin : (serial : Nat) → (i : Nat) → Word
/-- What event number `serial` reads in element `i` of POUT where nothing has written it since reset: free (U6; log 5). -/
opaque unwrittenPout : (serial : Nat) → (i : Nat) → Word
/-- What event number `serial` reads in byte `k` of TOUT where nothing has written it since reset: free (U6; log 5). -/
opaque unwrittenTout : (serial : Nat) → (k : Nat) → Byte

end Config

/-- `TMAX` = 16 × PMAX, "never a separate parameter" (R10, R35). -/
def Platform.tmax (p : Platform) : Nat := Config.tileb * p.pmax

/-- The constraint R10 puts on PMAX. -/
abbrev Platform.Legal (p : Platform) : Prop := 1 ≤ p.pmax ∧ p.pmax ≤ 2 ^ 26

end Sys2Proof
end

