-- ==== Sys2Proof/Syntax.lean ====
section
/-! DEFINITION. The three commands (R82), the host's transactions (R52), bus accesses (R53) and the events of a run. -/

namespace Sys2Proof

/-- The commands, one constructor per row of spec/opcode_table.json. No command has an operand field (R29, R80, R83). -/
inductive Instr where
  /-- `QUANT`, 0x00000001: quantize the image in PIN into POUT (R120). -/
  | quant
  /-- `GRID`, 0x00000002: the tile-grid metadata of W and H (R141). -/
  | grid
  /-- `ENC`, 0x00000003: encode the image in PIN into tile bytes in TOUT (R143). -/
  | enc
deriving DecidableEq, Repr

/-- Why a command word is reserved (R84). -/
inductive DecodeError where
  /-- some bit of the field `ZERO`, 31:8, is set -/
  | zeroField
  /-- `OP` is none of the codes of R82 -/
  | reservedOp (op : Byte)
deriving DecidableEq, Repr

/-- One host access, by (space, index). The first six constructors cover the seven transactions of R52 (`regWrite 0` is the
one that issues a command). The last two are accesses "a host has no way" to make (R52); U8 names them, and the model stops on
them by name. -/
inductive Transaction where
  /-- `RegWrite(n, v)` -/
  | regWrite (n : Nat) (v : Word)
  /-- `RegRead(n)` -/
  | regRead (n : Nat)
  /-- `PinWrite(i, p)` -/
  | pinWrite (i : Nat) (p : Word)
  /-- `PinRead(i)` -/
  | pinRead (i : Nat)
  /-- `PoutRead(i)` -/
  | poutRead (i : Nat)
  /-- `ToutRead(k)` -/
  | toutRead (k : Nat)
  /-- a write to POUT: outside the interface (U8) -/
  | poutWrite (i : Nat) (p : Word)
  /-- a write to TOUT: outside the interface (U8) -/
  | toutWrite (k : Nat) (b : Byte)
deriving DecidableEq, Repr

/-- An access on a platform's byte-addressed bus (R53, R59): an address, a size in bytes, and the data of a write. -/
structure BusAccess where
  addr : Nat
  size : Nat
  wdata : Option Word
deriving DecidableEq, Repr

/-- What can happen to the block between two commands. -/
inductive Event where
  /-- the host performs a transaction, addressed by (space, index) (R52) -/
  | host (t : Transaction)
  /-- the host performs an access on a byte-addressed mapping (R53) -/
  | bus (a : BusAccess)
  /-- the host performs `PinWrite(i, v)` with v the word its last read returned: the second half of `copy` (R95; log 16) -/
  | pinWriteLast (i : Nat)
  /-- reset is applied (R210; log 13) -/
  | reset
deriving DecidableEq, Repr

end Sys2Proof
end

