-- ==== Sys2Proof/WellFormed.lean ====
section
/-! DEFINITION. Which terms of the syntax are instructions, and which accesses are transactions of the interface (R52). -/

namespace Sys2Proof

/-- A command has no operand field, so no command can be ill-formed (R29, R80, R83). -/
def Instr.wf : Instr → Bool
  | .quant => true
  | .grid => true
  | .enc => true

/-- The transactions of R52 with their ranges, on a block of capacity `pmax`; everything else is outside the interface
(R21, R51, U8). -/
def Transaction.wf (pmax : Nat) : Transaction → Bool
  | .regWrite n _ => decide (n = 0 ∨ n = 2 ∨ n = 3 ∨ n = 4)
  | .regRead n => decide (1 ≤ n ∧ n ≤ 8)
  | .pinWrite i _ => decide (i < pmax)
  | .pinRead i => decide (i < pmax)
  | .poutRead i => decide (i < pmax)
  | .toutRead k => decide (k < Config.tileb * pmax)
  | .poutWrite _ _ => false
  | .toutWrite _ _ => false

end Sys2Proof
end

