-- ==== Sys2Proof/Decode.lean ====
section
/-! DEFINITION. Decoding and encoding of the command word, format CMD (R80, R81, R82, R84). -/

namespace Sys2Proof

/-- The field `ZERO`, bits 31:8 of a command word (R80). -/
def zeroField (v : Word) : BitVec 24 := v.extractLsb' 8 24

/-- The field `OP`, bits 7:0 of a command word (R80). -/
def opField (v : Word) : Byte := v.extractLsb' 0 8

/-- R81 with the opcode map of R82: every other word is reserved (R84). Total; a reserved word is rejected by name. -/
def decode (v : Word) : Except DecodeError Instr :=
  if zeroField v = 0#24 then
    if opField v = 0x01#8 then .ok .quant
    else if opField v = 0x02#8 then .ok .grid
    else if opField v = 0x03#8 then .ok .enc
    else .error (.reservedOp (opField v))
  else .error .zeroField

/-- The command word of an instruction (R82). -/
def encode : Instr → Word
  | .quant => 0x00000001#32
  | .grid => 0x00000002#32
  | .enc => 0x00000003#32

/-- The command word that `nbits` bits of the opcode table with value `w` stand for: bits at or above `nbits` are 0. CMD is
written as one whole word (R58), so there is no byte order to lay out. -/
def tableWord (nbits w : Nat) : Word := BitVec.ofNat 32 (w % 2 ^ nbits)

/-- What the decoder reads from the table's word. -/
def decodeTableWord (nbits w : Nat) : Option Instr :=
  match decode (tableWord nbits w) with
  | .ok i => some i
  | .error _ => none

end Sys2Proof
end

