-- ==== Sys2Proof/Machine/State.lean ====
section
/-! DEFINITION. The whole architectural state of QTE (R20), the model's own fields beside it, the reasons a step can stop, and
the state after reset (R39). -/

namespace Sys2Proof.Machine

/-- One memory: (index, value) pairs with strictly rising indices. An index that is not listed has not been written since
reset and holds no defined value (R36). `Memory 8` is a list of `Host.Cell`. The unit of PIN and POUT is the 32-bit
element (R51; log 7). -/
abbrev Memory (w : Nat) := List (Nat × BitVec w)

/-- The codes of STATUS.ERR (R25, R26). -/
inductive ErrCode where
  /-- 0: the command wrote all of its outputs -/
  | ok
  /-- 1, R181 -/
  | invalidDimensions
  /-- 2, R183 -/
  | capacity
  /-- 3, R180 -/
  | illegalCmd
deriving DecidableEq, Repr

/-- What a read transaction returns to the host (R52): a register or pixel word, or a tile byte. -/
inductive Reply where
  | word (v : Word)
  | byte (b : Byte)
deriving DecidableEq, Repr

/-- The state. Nine fields are the spec's (R20 without CMD, which is not storage, R23; and without PAL, a constant, R30); the
last three are the model's own. Plain data throughout. -/
structure State where
  /-- register 1, R25 -/
  status : Word
  /-- register 2, image width, read as i32 (R22) -/
  w : Word
  /-- register 3, image height, read as i32 (R22) -/
  h : Word
  /-- register 4, pixel count, read as i32 (R22) -/
  n : Word
  /-- register 5, tile grid width (R24) -/
  tcx : Word
  /-- register 6, tile grid height (R24) -/
  tcy : Word
  /-- register 7, tile count (R24) -/
  tcnt : Word
  /-- register 8, encoded size in bytes (R24) -/
  tsize : Word
  /-- input pixel memory (R33) -/
  pin : Memory 32
  /-- output pixel memory (R34) -/
  pout : Memory 32
  /-- tile memory (R35) -/
  tout : Memory 8
  /-- the events still to come, in order (R63, R219; log 1): the model's own -/
  script : List Event
  /-- what the host's reads have returned, oldest first (R52; log 3): the model's own -/
  replies : List Reply
  /-- how many events have been performed; numbers the free values of unwritten storage (log 5): the model's own -/
  serial : Nat
deriving DecidableEq, Repr

/-- The reasons to stop with a fault: none. The errors of the spec are STATUS codes in a next state (R185), and what is outside
the interface is refused (R189 "a model refuses it", U8; log 8). -/
inductive Fault
deriving DecidableEq, Repr

/-- The model refuses what is outside the interface (R189, U8) and has no specified effect. -/
inductive Refusal where
  /-- an instruction without a meaning; no arm of `exec` is left with it; safe -/
  | notModelled (mnemonic : String)
  /-- raised by a register read or write with a number above 8 (R21, U8); safe -/
  | noSuchRegister (number : Nat)
  /-- raised by a PIN or POUT access at or beyond PMAX and a TOUT access at or beyond TMAX (R51, U8); safe -/
  | noSuchElement (space : Space) (index : Nat)
  /-- raised by a read of CMD (R21, U8); safe -/
  | readOfCmd
  /-- raised by a host write of STATUS, TCX, TCY, TCNT or TSIZE (R21, U8); safe -/
  | writeOfReadOnly (number : Nat)
  /-- raised by a host write to POUT (R52, U8); safe -/
  | writeOfPout (index : Nat)
  /-- raised by a host write to TOUT (R52, U8); safe -/
  | writeOfTout (index : Nat)
  /-- raised by a bus access whose size is not 4 bytes (registers, pixel words) or 1 byte (tile bytes) (R59, U8); safe -/
  | busSize (size : Nat)
  /-- raised by a bus access in a window of registers or pixel words whose byte address is not a multiple of 4, or is not at a
  multiple of 4 from the base and so names no element (R53, R59, U8); safe -/
  | busMisaligned (addr : Nat)
  /-- raised by a bus access to an address in none of the block's windows: it is not addressed to the block (R53); safe -/
  | busElsewhere (addr : Nat)
  /-- raised by `pinWriteLast` where the host's last read returned no word: the host has no value to write (R95); safe -/
  | noWordToWrite
deriving DecidableEq, Repr

/-- The machine right after reset: every register zero, nothing written in any memory (R39, R210, R211). The script is empty:
nothing is pending (R39), and the host's events come from outside (log 1). -/
def State.reset : State :=
  { status := 0#32, w := 0#32, h := 0#32, n := 0#32
    tcx := 0#32, tcy := 0#32, tcnt := 0#32, tsize := 0#32
    pin := [], pout := [], tout := []
    script := [], replies := [], serial := 0 }

/-- What one step, transaction or command answers. -/
abbrev Result := Host.Outcome State Fault Refusal

end Sys2Proof.Machine
end

