-- ==== Sys2Proof/Machine/Flags.lean ====
section
/-! DEFINITION. STATUS: its layout, and the word each outcome writes (R25, R26, R27). -/

namespace Sys2Proof.Machine

/-- The code of STATUS.ERR (R25). -/
def ErrCode.code : ErrCode → BitVec 2
  | .ok => 0#2
  | .invalidDimensions => 1#2
  | .capacity => 2#2
  | .illegalCmd => 3#2

/-- The whole STATUS word: ERR in 1:0, UNQ in 4, every reserved bit 0 (R25). -/
def statusWord (e : ErrCode) (unq : Bool) : Word := 0#27 ++ (BitVec.ofBool unq ++ (0#2 ++ e.code))

/-- STATUS.ERR (R25). -/
def State.err (s : State) : BitVec 2 := s.status.extractLsb' 0 2

/-- STATUS.UNQ (R25, R27). -/
def State.unq (s : State) : Bool := s.status.getLsbD 4

end Sys2Proof.Machine
end

