-- ==== Sys2Proof/Machine/Operands.lean ====
section
/-! DEFINITION. The operands of the commands: W, H and N as i32 (R22, R83), and the fields of a pixel word (R86). -/

namespace Sys2Proof.Machine

/-- A register read by a command: a two's-complement signed integer (R22), used with no further scaling (R83). -/
def i32 (v : Word) : Int := v.toInt

/-- The image width that a command has validated (`1 ≤ i32 s.w`) as a natural number. -/
def State.width (s : State) : Nat := (i32 s.w).toNat

/-- The image height that a command has validated (`1 ≤ i32 s.h`) as a natural number. -/
def State.height (s : State) : Nat := (i32 s.h).toNat

/-- W × H, formed exactly (R116, D31). -/
def State.pixels (s : State) : Nat := s.width * s.height

/-- Red, bits 31:24 (R86). -/
def pixR (p : Word) : Byte := p.extractLsb' 24 8
/-- Green, bits 23:16 (R86). -/
def pixG (p : Word) : Byte := p.extractLsb' 16 8
/-- Blue, bits 15:8 (R86). -/
def pixB (p : Word) : Byte := p.extractLsb' 8 8
/-- Alpha, bits 7:0 (R86). -/
def pixA (p : Word) : Byte := p.extractLsb' 0 8

/-- The colour of a pixel word: its fields R, G, B without alpha (R14, R86, R87). -/
def pixColor (p : Word) : Color := { r := pixR p, g := pixG p, b := pixB p }

/-- The pixel word 0xRRGGBBAA of a colour and an alpha (R86). -/
def mkPixel (c : Color) (a : Byte) : Word := c.r ++ (c.g ++ (c.b ++ a))

end Sys2Proof.Machine
end

