-- ==== Sys2Proof/Machine/Ops.lean ====
section
/-! DEFINITION. The shared operations: memory access (R15, R36), the loop of the pseudocode (R15), validation (R181, R183),
and raising an error (R185). There is no return from an error: nothing is saved and nothing runs in between (R186). -/

namespace Sys2Proof.Machine

/-- `for v in [0, n)`: v = 0, 1, …, n − 1 in that order (R15). -/
def loop {σ : Type} (n : Nat) (body : Nat → σ → σ) (init : σ) : σ :=
  match n with
  | 0 => init
  | k + 1 => body k (loop k body init)

/-- Read one element: what was last written to it, or `none` where nothing has written it since reset (R36). -/
def Memory.read {w : Nat} (m : Memory w) (i : Nat) : Option (BitVec w) :=
  match m with
  | [] => none
  | (j, v) :: rest => if i = j then some v else Memory.read rest i

/-- Write one element, keeping the indices rising (R15, R36). -/
def Memory.write {w : Nat} (m : Memory w) (i : Nat) (v : BitVec w) : Memory w :=
  match m with
  | [] => [(i, v)]
  | (j, u) :: rest =>
    if i < j then (i, v) :: (j, u) :: rest
    else if i = j then (i, v) :: rest
    else (j, u) :: Memory.write rest i v

/-- The canonical form of a memory: strictly rising indices. What an unlisted index reads as is "nothing has written it", which
no entry can equal, so equal memories are equal lists. -/
abbrev Memory.wf {w : Nat} (m : Memory w) : Prop := m.Pairwise (fun a b => a.1 < b.1)

/-- Every listed index is below `bound` (R50). -/
abbrev Memory.below {w : Nat} (m : Memory w) (bound : Nat) : Prop := ∀ c ∈ m, c.1 < bound

/-- PIN[i] as a command or the host reads it now: the word last written, or a free value where nothing has written it since
reset (R36, U6; log 5). -/
def State.pinValue (s : State) (i : Nat) : Word := (s.pin.read i).getD (Config.unwrittenPin s.serial i)

/-- POUT[i] as the host reads it now (R36, U6; log 5). -/
def State.poutValue (s : State) (i : Nat) : Word := (s.pout.read i).getD (Config.unwrittenPout s.serial i)

/-- TOUT[k] as the host reads it now (R36, U6; log 5). -/
def State.toutValue (s : State) (k : Nat) : Byte := (s.tout.read k).getD (Config.unwrittenTout s.serial k)

/-- A command writes the whole of STATUS (R25). -/
def State.finish (s : State) (e : ErrCode) (unq : Bool) : State := { s with status := statusWord e unq }

/-- `raise E`: the command ends at once; STATUS becomes the code of E with UNQ = 0 and every reserved bit 0; nothing else is
written, nothing is saved and control goes nowhere (R182, R185). -/
def State.raise (s : State) (e : ErrCode) : State := s.finish e false

/-- The first two checks of a command in their order (R184): INVALID_DIMENSIONS (R181; N is examined only where `usesN`), then
CAPACITY (R183). W, H and N are signed and the product is exact (R22, D31). -/
def State.dimsError (s : State) (pmax : Nat) (usesN : Bool) : Option ErrCode :=
  if i32 s.w < 1 ∨ i32 s.h < 1 ∨ (usesN = true ∧ i32 s.n ≠ i32 s.w * i32 s.h) then some .invalidDimensions
  else if (pmax : Int) < i32 s.w * i32 s.h then some .capacity
  else none

/-- A command: validation first, and no output is written unless it passes (R61, R185). -/
def State.validated (s : State) (pmax : Nat) (usesN : Bool) (body : State → State) : State :=
  match s.dimsError pmax usesN with
  | some e => s.raise e
  | none => body s

end Sys2Proof.Machine
end

