-- ==== Sys2Proof/Machine/Palette.lean ====
section
/-! DEFINITION. The palette table PAL: a constant, never written, not host-addressable (R30, R31). -/

namespace Sys2Proof.Machine

/-- `PAL[k]` (R30). The values are the document's, unaudited against its repository (N14; log 11). -/
def pal (k : Fin 4) : Color :=
  match k with
  | 0 => { r := 155#8, g := 188#8, b := 15#8 }
  | 1 => { r := 139#8, g := 172#8, b := 15#8 }
  | 2 => { r := 48#8, g := 98#8, b := 48#8 }
  | 3 => { r := 15#8, g := 56#8, b := 15#8 }

end Sys2Proof.Machine
end

