-- ==== Sys2Proof/Machine/Quantizer.lean ====
section
/-! DEFINITION. The quantizer: DIST2, NEAREST, QPIX and the command QUANT (40_quantizer.md). -/

namespace Sys2Proof.Machine

/-- `DIST2(c, p)`, over the integers; equal weights, no alpha, no square root (R110, R111; log 12). -/
def dist2 (c p : Color) : Int :=
  ((c.r.toNat : Int) - p.r.toNat) ^ 2 + ((c.g.toNat : Int) - p.g.toNat) ^ 2 + ((c.b.toNat : Int) - p.b.toNat) ^ 2

/-- The scan of R112 over the entries still to examine: strictly less replaces the best, so a tie keeps the earlier entry. -/
def nearestScan (c : Color) (todo : List (Fin 4)) (best : Fin 4) (bestd : Int) : Fin 4 :=
  match todo with
  | [] => best
  | k :: rest =>
    if dist2 c (pal k) < bestd then nearestScan c rest k (dist2 c (pal k)) else nearestScan c rest best bestd

/-- `NEAREST(r, g, b)`: start from entry 0, then examine 1, 2, 3 in this order (R112, D33). -/
def nearest (c : Color) : Fin 4 := nearestScan c [1, 2, 3] 0 (dist2 c (pal 0))

/-- `QPIX(P)`: the nearest palette colour, alpha copied bit for bit (R115). -/
def qpix (p : Word) : Word := mkPixel (pal (nearest (pixColor p))) (pixA p)

/-- The loop of QUANT: `for i in [0, count): POUT[i] <- QPIX(PIN[i])` (R120). -/
def quantLoop (pin : Nat → Word) (count : Nat) (pout : Memory 32) : Memory 32 :=
  loop count (fun i m => m.write i (qpix (pin i))) pout

/-- QUANT after its checks (R120). -/
def State.quantBody (s : State) : State :=
  { s with pout := quantLoop s.pinValue s.pixels s.pout }.finish .ok false

/-- QUANT on a platform (R120). -/
def quantAt (p : Platform) (s : State) : State := s.validated p.pmax true State.quantBody

/-- The command `QUANT` (R120). -/
def execQuant (s : State) : Result := .next (quantAt Config.platform s)

end Sys2Proof.Machine
end

