-- ==== Sys2Proof/Machine/TileEncoder.lean ====
section
/-! DEFINITION. The tile encoder: CIDX, TGRID, IDXAT, PACKROW and the commands GRID and ENC (41_tile_encoder.md). -/

namespace Sys2Proof.Machine

/-- The exact-match lookup of R130, entry by entry: the entry found, or `none` where no entry matches on all 24 bits. -/
def cidxScan (c : Color) (todo : List (Fin 4)) : Option (Fin 4) :=
  match todo with
  | [] => none
  | k :: rest => if c = pal k then some k else cidxScan c rest

/-- The palette entry a colour equals, if it is quantized (R19, R130). -/
def cidxMatch (c : Color) : Option (Fin 4) := cidxScan c [0, 1, 2, 3]

/-- `CIDX(r, g, b)`: exact match, else the lenient fallback 0 (R130, R131). -/
def cidx (c : Color) : Fin 4 := (cidxMatch c).getD 0

/-- `TGRID(W, H)` = (ceil(W / 8), ceil(H / 8)) (R132). -/
def tgrid (width height : Nat) : Nat × Nat :=
  ((width + (Config.tile - 1)) / Config.tile, (height + (Config.tile - 1)) / Config.tile)

/-- `IDXAT(x, y)`: the index of an in-bounds pixel, element y × W + x (R55; log 10); padding by index 0 outside the image,
without reading PIN (R134, R135). Both coordinates are tested (N13). -/
def idxAt (pin : Nat → Word) (width height x y : Nat) : Fin 4 :=
  if x < width ∧ y < height then cidx (pixColor (pin (y * width + x))) else 0

/-- The two accumulators of a tile row after column `col` (R136): bit 7 − col of `lo` from index bit 0, of `hi` from bit 1. -/
def packCol (index : Fin 4) (col : Nat) (acc : Byte × Byte) : Byte × Byte :=
  (if index.val &&& 1 ≠ 0 then acc.1 ||| (1#8 <<< (7 - col)) else acc.1,
   if index.val &&& 2 ≠ 0 then acc.2 ||| (1#8 <<< (7 - col)) else acc.2)

/-- `PACKROW(tx, ty, row)`: the bytes (lo, hi) of one tile row (R136). -/
def packRow (pin : Nat → Word) (width height tx ty row : Nat) : Byte × Byte :=
  loop Config.tile
    (fun col acc => packCol (idxAt pin width height (Config.tile * tx + col) (Config.tile * ty + row)) col acc)
    (0#8, 0#8)

/-- The innermost body of ENC: `TOUT[k] <- lo; TOUT[k + 1] <- hi; k <- k + 2` (R143). -/
def emitRow (bytes : Byte × Byte) (acc : Nat × Memory 8) : Nat × Memory 8 :=
  (acc.1 + Config.rowb, (acc.2.write acc.1 bytes.1).write (acc.1 + 1) bytes.2)

/-- The loop nest of ENC: ty, tx, row, from k = 0 (R143). The result is the final k and the tile memory. -/
def encLoop (pin : Nat → Word) (width height tcx tcy : Nat) (tout : Memory 8) : Nat × Memory 8 :=
  loop tcy (fun ty a =>
    loop tcx (fun tx b =>
      loop Config.tile (fun row c => emitRow (packRow pin width height tx ty row) c) b) a) (0, tout)

/-- The closed form of the stream, byte by byte: k = 16 t + 2 r + p, ty = t div TCX, tx = t mod TCX, and the byte is `lo` or
`hi` of PACKROW(tx, ty, r) as p is 0 or 1 (R90, R138). -/
def streamByte (pin : Nat → Word) (width height tcx k : Nat) : Byte :=
  let t := k / Config.tileb
  let bytes := packRow pin width height (t % tcx) (t / tcx) (k % Config.tileb / Config.rowb)
  if k % Config.rowb = 0 then bytes.1 else bytes.2

/-- Reading the stream back: the palette index of the pixel at (x, y), from the two bytes that hold it (R92). -/
def readBack (tout : Nat → Byte) (tcx x y : Nat) : Nat :=
  let base := Config.tileb * (y / Config.tile * tcx + x / Config.tile) + Config.rowb * (y % Config.tile)
  let bit := fun (b : Byte) => (b >>> (7 - x % Config.tile)).toNat % 2
  2 * bit (tout (base + 1)) + bit (tout base)

/-- `unq`: some in-bounds position holds a colour that equals no palette entry (R144). -/
def unqOf (pin : Nat → Word) (width height : Nat) : Bool :=
  (List.range height).any fun y => (List.range width).any fun x => (cidxMatch (pixColor (pin (y * width + x)))).isNone

/-- `TCX <- tcx ; TCY <- tcy ; TCNT <- tcx × tcy ; TSIZE <- tcx × tcy × 16`: written together (R24, R141, R143). -/
def State.setGrid (s : State) (tcx tcy : Nat) : State :=
  { s with
    tcx := BitVec.ofNat 32 tcx
    tcy := BitVec.ofNat 32 tcy
    tcnt := BitVec.ofNat 32 (tcx * tcy)
    tsize := BitVec.ofNat 32 (tcx * tcy * Config.tileb) }

/-- GRID after its checks (R141). -/
def State.gridBody (s : State) : State :=
  (s.setGrid (tgrid s.width s.height).1 (tgrid s.width s.height).2).finish .ok false

/-- GRID on a platform: N is not examined (R141, R181). -/
def gridAt (p : Platform) (s : State) : State := s.validated p.pmax false State.gridBody

/-- The command `GRID` (R141). -/
def execGrid (s : State) : Result := .next (gridAt Config.platform s)

/-- ENC after its checks (R143). -/
def State.encBody (s : State) : State :=
  let tcx := (tgrid s.width s.height).1
  let tcy := (tgrid s.width s.height).2
  ({ s with tout := (encLoop s.pinValue s.width s.height tcx tcy s.tout).2 }.setGrid tcx tcy).finish .ok
    (unqOf s.pinValue s.width s.height)

/-- ENC on a platform (R143). -/
def encAt (p : Platform) (s : State) : State := s.validated p.pmax true State.encBody

/-- The command `ENC` (R143). -/
def execEnc (s : State) : Result := .next (encAt Config.platform s)

end Sys2Proof.Machine
end

