-- ==== Sys2Proof/Machine/Dispatch.lean ====
section
/-! DEFINITION. One arm per command. -/

namespace Sys2Proof.Machine

def exec (i : Instr) (s : State) : Host.Outcome State Fault Refusal :=
  match i with
  | .quant => Sys2Proof.Machine.execQuant s
  | .grid => Sys2Proof.Machine.execGrid s
  | .enc => Sys2Proof.Machine.execEnc s

end Sys2Proof.Machine
end

