-- ==== Sys2Proof/Machine/Transactions.lean ====
section
/-! DEFINITION. The host's transactions (R52), the bus mapping (R53, R59), the reset event (R210) and one event of a run. A
run of a command is a parameter (`run`), so that the same text serves a platform of known capacity. -/

namespace Sys2Proof.Machine

/-- The three commands on a platform; `exec` is this one on `Config.platform`. -/
def execAt (p : Platform) (i : Instr) (s : State) : Result :=
  match i with
  | .quant => .next (quantAt p s)
  | .grid => .next (gridAt p s)
  | .enc => .next (encAt p s)

/-- `RegWrite(0, v)`: decode, then run the command to its end; a reserved word is ILLEGAL_CMD whatever W, H and N hold
(R60, R81, R84, R180, R184). -/
def issueCommand (run : Instr → State → Result) (v : Word) (s : State) : Result :=
  match decode v with
  | .ok i => run i s
  | .error _ => .next (s.raise .illegalCmd)

/-- `RegWrite(n, v)` (R21, R52). -/
def writeRegister (run : Instr → State → Result) (n : Nat) (v : Word) (s : State) : Result :=
  match n with
  | 0 => issueCommand run v s
  | 1 => .refused (.writeOfReadOnly 1)
  | 2 => .next { s with w := v }
  | 3 => .next { s with h := v }
  | 4 => .next { s with n := v }
  | 5 => .refused (.writeOfReadOnly 5)
  | 6 => .refused (.writeOfReadOnly 6)
  | 7 => .refused (.writeOfReadOnly 7)
  | 8 => .refused (.writeOfReadOnly 8)
  | k + 9 => .refused (.noSuchRegister (k + 9))

/-- The register file by number, for the registers that can be read (R21). -/
def State.register (s : State) (n : Nat) : Option Word :=
  match n with
  | 1 => some s.status
  | 2 => some s.w
  | 3 => some s.h
  | 4 => some s.n
  | 5 => some s.tcx
  | 6 => some s.tcy
  | 7 => some s.tcnt
  | 8 => some s.tsize
  | _ => none

/-- A read returns a value to the host and has no other effect (R52, R62). -/
def State.reply (s : State) (r : Reply) : State := { s with replies := s.replies ++ [r] }

/-- `RegRead(n)` (R21, R52). -/
def readRegister (n : Nat) (s : State) : Result :=
  match s.register n with
  | some v => .next (s.reply (.word v))
  | none => if n = 0 then .refused .readOfCmd else .refused (.noSuchRegister n)

/-- `PinWrite(i, v)` (R33, R52). -/
def writePin (p : Platform) (i : Nat) (v : Word) (s : State) : Result :=
  if i < p.pmax then .next { s with pin := s.pin.write i v } else .refused (.noSuchElement .pin i)

/-- One host access (R52; U8 for what is outside the interface). -/
def performTransaction (p : Platform) (run : Instr → State → Result) (t : Transaction) (s : State) : Result :=
  match t with
  | .regWrite n v => writeRegister run n v s
  | .regRead n => readRegister n s
  | .pinWrite i v => writePin p i v s
  | .pinRead i => if i < p.pmax then .next (s.reply (.word (s.pinValue i))) else .refused (.noSuchElement .pin i)
  | .poutRead i => if i < p.pmax then .next (s.reply (.word (s.poutValue i))) else .refused (.noSuchElement .pout i)
  | .toutRead k => if k < p.tmax then .next (s.reply (.byte (s.toutValue k))) else .refused (.noSuchElement .tout k)
  | .poutWrite i _ => if i < p.pmax then .refused (.writeOfPout i) else .refused (.noSuchElement .pout i)
  | .toutWrite k _ => if k < p.tmax then .refused (.writeOfTout k) else .refused (.noSuchElement .tout k)

/-- A bus access at `off` bytes into a window of 32-bit elements: element off / 4, with 4 bytes, at a byte address that is a
multiple of 4 (R59) and at an element (R53). -/
def wordAccess (a : BusAccess) (off : Nat) (read : Nat → Transaction) (write : Nat → Word → Transaction) :
    Except Refusal Transaction :=
  if a.size ≠ 4 then .error (.busSize a.size)
  else if a.addr % 4 ≠ 0 ∨ off % 4 ≠ 0 then .error (.busMisaligned a.addr)
  else match a.wdata with
    | none => .ok (read (off / 4))
    | some v => .ok (write (off / 4) v)

/-- A bus access at `off` bytes into the window of TOUT: one byte (R53, R59). -/
def byteAccess (a : BusAccess) (off : Nat) : Except Refusal Transaction :=
  if a.size ≠ 1 then .error (.busSize a.size)
  else match a.wdata with
    | none => .ok (.toutRead off)
    | some v => .ok (.toutWrite off (v.extractLsb' 0 8))

/-- Does `addr` lie in the window of `size` bytes at `base`? -/
def inWindow (addr base size : Nat) : Bool := decide (base ≤ addr ∧ addr < base + size)

/-- Which transaction a byte address names: register n at REG_BASE + 4n, PIN[i] at PIN_BASE + 4i, POUT[i] at
POUT_BASE + 4i, TOUT[k] at TOUT_BASE + k (R53). The windows of a platform do not overlap; they are tried in this order
(log 15). -/
def busDecode (p : Platform) (a : BusAccess) : Except Refusal Transaction :=
  if inWindow a.addr p.regBase (4 * Config.nreg) then wordAccess a (a.addr - p.regBase) .regRead .regWrite
  else if inWindow a.addr p.pinBase (4 * p.pmax) then wordAccess a (a.addr - p.pinBase) .pinRead .pinWrite
  else if inWindow a.addr p.poutBase (4 * p.pmax) then wordAccess a (a.addr - p.poutBase) .poutRead .poutWrite
  else if inWindow a.addr p.toutBase p.tmax then byteAccess a (a.addr - p.toutBase)
  else .error (.busElsewhere a.addr)

/-- Reset: every register and memory as R39 and R211 say; what the host still means to do, has seen, and the numbering of the
free values are not the block's and stay (log 13). -/
def State.applyReset (s : State) : State :=
  { State.reset with script := s.script, replies := s.replies, serial := s.serial }

/-- One event of a run. -/
def performEvent (p : Platform) (run : Instr → State → Result) (e : Event) (s : State) : Result :=
  match e with
  | .host t => performTransaction p run t s
  | .bus a =>
    match busDecode p a with
    | .ok t => performTransaction p run t s
    | .error r => .refused r
  | .pinWriteLast i =>
    match s.replies.getLast? with
    | some (.word v) => writePin p i v s
    | _ => .refused .noWordToWrite
  | .reset => .next s.applyReset

/-- Take the next event out of the script and number it (log 1, log 5). -/
def State.advance (s : State) (rest : List Event) : State := { s with script := rest, serial := s.serial + 1 }

/-- One step on a platform: the next event of the script (R63); with none, nothing moves (R220; log 2). -/
def stepWith (p : Platform) (run : Instr → State → Result) (s : State) : Result :=
  match s.script with
  | [] => .next s
  | e :: rest => performEvent p run e (s.advance rest)

end Sys2Proof.Machine
end

