-- ==== Sys2Proof/Machine/Step.lean ====
section
/-! DEFINITION. The step of the machine, and where a command word is placed for it. -/

namespace Sys2Proof.Machine

/-- One step: the next event of the host's script, on the platform with every parameter open. -/
def step (s : State) : Host.Outcome State Fault Refusal := stepWith Config.platform exec s

/-- The block fetches no instructions: a command comes with the host's write to CMD (R23, R28, R65). Placing an instruction
puts that write in front of the host's script, and changes nothing else (log 1). -/
def State.withFetchWord (s : State) (nbits w : Nat) : State :=
  { s with script := .host (.regWrite 0 (tableWord nbits w)) :: s.script }

end Sys2Proof.Machine
end

