-- ==== Sys2Proof/Machine/Listing.lean ====
section
/-! DEFINITION. The generated listing: host software, a pure function of the block's outputs (42_host_listing.md; R6). It has no
command and no state. A text is a list of characters, so that it can be evaluated and compared. -/

namespace Sys2Proof.Machine

/-- A text. -/
abbrev Text := List Char

/-- The inputs of `renderListing` (R160), with the optional time stamp that the caller may supply (R161). The base name is the one
chosen by the user or derived by the caller (R161, C9). -/
structure ListingInput where
  bytes : List Byte
  width : Nat
  height : Nat
  tileCountX : Nat
  tileCountY : Nat
  baseName : Text
  stamp : Option Text
deriving DecidableEq, Repr

/-- Is the character kept by the sanitisation: an ASCII letter, an ASCII digit or the underscore (R162)? -/
def keptChar (c : Char) : Bool :=
  let n := c.toNat
  (decide (65 ≤ n) && decide (n ≤ 90)) || (decide (97 ≤ n) && decide (n ≤ 122)) || (decide (48 ≤ n) && decide (n ≤ 57)) ||
    decide (n = 95)

/-- `SANITIZE(name)`: every other character, a code point, becomes one underscore (R162, D28). -/
def sanitize (name : Text) : Text := name.map fun c => if keptChar c then c else '_'

/-- The upper-case form of an ASCII lower-case letter; every other character is left as it is (R163). -/
def upperChar (c : Char) : Char :=
  if 97 ≤ c.toNat ∧ c.toNat ≤ 122 then Char.ofNat (c.toNat - 32) else c

/-- `BASE`: the base identifier in upper case (R163). -/
def upperBase (name : Text) : Text := (sanitize name).map upperChar

/-- One hexadecimal digit, `0`–`9` and `A`–`F` (R165). -/
def hexDigit (n : Nat) : Char := if n < 10 then Char.ofNat (48 + n) else Char.ofNat (55 + n)

/-- `0xHH`: lower-case x, two digits (R165). -/
def hexByte (b : Byte) : Text := ['0', 'x', hexDigit (b.toNat / 16), hexDigit (b.toNat % 16)]

/-- A number in decimal without leading zeros (R166, R169). -/
def decimal (n : Nat) : Text := Nat.toDigits 10 n

/-- The bytes in lines of 8 values (R165); `fuel` bounds the number of lines. -/
def linesOf8 (fuel : Nat) (bytes : List Byte) : List (List Byte) :=
  match fuel with
  | 0 => []
  | f + 1 => if bytes = [] then [] else bytes.take 8 :: linesOf8 f (bytes.drop 8)

/-- The pieces with `sep` between them. -/
def joinWith (sep : Text) (pieces : List Text) : Text := sep.intercalate pieces

/-- The number of tiles that the listing prints (R160, R166). -/
def ListingInput.tileCount (i : ListingInput) : Nat := i.tileCountX * i.tileCountY

/-- The six constants: name without its prefix, and value; all six are present (R166, R167). -/
def listingConstants (i : ListingInput) : List (Text × Nat) :=
  [("_WIDTH".toList, i.width), ("_HEIGHT".toList, i.height),
   ("_TILE_WIDTH".toList, i.tileCountX), ("_TILE_HEIGHT".toList, i.tileCountY),
   ("_TILE_COUNT".toList, i.tileCount), ("_SIZE".toList, i.bytes.length)]

/-- The concrete syntax that R169 chooses and U10 calls a parameter (log 19): both comments, how an array opens and closes, what
indents a line of values, what separates values and lines, and how a constant is defined. -/
structure ListingStyle where
  header : ListingInput → Text
  arrayOpen : Text → Text
  arrayClose : Text
  indent : Text
  valueSep : Text
  lineSep : Text
  constant : Text → Nat → Text
  usage : ListingInput → Text

/-- A line feed (R169). -/
def lineFeed : Text := [Char.ofNat 10]

/-- The header comment of R169: the dimension summary, and the `Generated:` line only with a stamp. -/
def cHeader (i : ListingInput) : Text :=
  "/*".toList ++ lineFeed ++
  " * ".toList ++ sanitize i.baseName ++ ": ".toList ++ decimal i.width ++ "x".toList ++ decimal i.height ++
  " pixels, ".toList ++ decimal i.tileCountX ++ "x".toList ++ decimal i.tileCountY ++ " tiles, ".toList ++
  decimal i.tileCount ++ " tiles, ".toList ++ decimal i.bytes.length ++ " bytes".toList ++ lineFeed ++
  (match i.stamp with
   | some t => " * Generated: ".toList ++ t ++ lineFeed
   | none => []) ++
  " */".toList ++ lineFeed

/-- The usage comment of R169. -/
def cUsage (i : ListingInput) : Text :=
  "/* Usage: load ".toList ++ upperBase i.baseName ++ "_TILE_COUNT tiles (".toList ++ upperBase i.baseName ++
  "_SIZE bytes) from ".toList ++ sanitize i.baseName ++ "_tiles into tile memory. */".toList ++ lineFeed

/-- The default syntax, C (R169). The codes 123 and 125 are the opening and closing brace. -/
def cStyle : ListingStyle :=
  { header := cHeader
    arrayOpen := fun base => "const unsigned char ".toList ++ base ++ "_tiles[] = ".toList ++ [Char.ofNat 123] ++ lineFeed
    arrayClose := lineFeed ++ [Char.ofNat 125] ++ ";".toList ++ lineFeed
    indent := "    ".toList
    valueSep := ", ".toList
    lineSep := ",".toList ++ lineFeed
    constant := fun name v => "#define ".toList ++ name ++ " ".toList ++ decimal v ++ lineFeed
    usage := cUsage }

/-- One line of the array body (R165). -/
def bodyLine (st : ListingStyle) (l : List Byte) : Text := st.indent ++ joinWith st.valueSep (l.map hexByte)

/-- The array body (R165). -/
def arrayBody (st : ListingStyle) (bytes : List Byte) : Text :=
  joinWith st.lineSep ((linesOf8 bytes.length bytes).map (bodyLine st))

/-- `renderListing`: header comment, array, constants, usage comment, in this order (R164, R168, R169). -/
def renderListing (st : ListingStyle) (i : ListingInput) : Text :=
  st.header i ++
  st.arrayOpen (sanitize i.baseName) ++ arrayBody st i.bytes ++ st.arrayClose ++ lineFeed ++
  ((listingConstants i).map fun c => st.constant (upperBase i.baseName ++ c.1) c.2).flatten ++ lineFeed ++
  st.usage i

/-- The inputs a host takes from the block after a successful ENC (R160). -/
def State.listingInput (s : State) (baseName : Text) (stamp : Option Text) : ListingInput :=
  { bytes := (List.range s.tsize.toNat).map s.toutValue
    width := s.width
    height := s.height
    tileCountX := s.tcx.toNat
    tileCountY := s.tcy.toNat
    baseName := baseName
    stamp := stamp }

end Sys2Proof.Machine
end

