-- ==== Sys2Proof/Machine/Script.lean ====
section
/-! DEFINITION. The host script notation of R94 and the expansion of its pseudo-instructions (R95) into events of a run. -/

namespace Sys2Proof.Machine

/-- The operand registers a script line may write (R94). -/
inductive OperandReg where
  | w
  | h
  | n
deriving DecidableEq, Repr

/-- A line of the script notation (R94, R95). The text after `;` is a comment and has no counterpart; the value after `=>` is a
prediction about the reply and no part of the transaction. -/
inductive ScriptLine where
  /-- `wr W, v`; a negative v is written as its 32-bit two's complement (a v that fits no 32 bits: log 22) -/
  | wr (r : OperandReg) (v : Int)
  /-- `cmd QUANT`, `cmd GRID`, `cmd ENC` -/
  | cmd (i : Instr)
  /-- `cmd v`, with a literal word -/
  | cmdWord (v : Word)
  /-- `rd STATUS` … `rd TSIZE`, by register number -/
  | rd (n : Nat)
  /-- `pw i, 0xRRGGBBAA` -/
  | pw (i : Nat) (p : Word)
  /-- `pr i` -/
  | pr (i : Nat)
  /-- `or i` -/
  | po (i : Nat)
  /-- `tr k` -/
  | tr (k : Nat)
  /-- pseudo: `dims w, h`; N is w × h (a product that fits no 32 bits: log 22) -/
  | dims (w h : Int)
  /-- pseudo: `fill a, b, 0xRRGGBBAA` -/
  | fill (a b : Nat) (p : Word)
  /-- pseudo: `copy n` -/
  | copy (n : Nat)
  /-- pseudo: `expect tout a: b0 b1 …` -/
  | expectTout (a : Nat) (bytes : List Byte)
deriving DecidableEq, Repr

/-- The register number of an operand register (R21). -/
def OperandReg.number : OperandReg → Nat
  | .w => 2
  | .h => 3
  | .n => 4

/-- The transaction of `wr` (R94): the word that is v modulo 2^32. For −2^31 ≤ v < 2^32 that is v, or its two's complement. Which
word is written where v fits no 32 bits (`dims 65536, 65536` writes N so) R94 leaves open: DESIGN CHOICE, the low 32 bits (log 22). -/
def wrEvent (r : OperandReg) (v : Int) : Event := .host (.regWrite r.number (BitVec.ofInt 32 v))

/-- The events of one line, in order (R94, R95). -/
def ScriptLine.expand (l : ScriptLine) : List Event :=
  match l with
  | .wr r v => [wrEvent r v]
  | .cmd i => [.host (.regWrite 0 (encode i))]
  | .cmdWord v => [.host (.regWrite 0 v)]
  | .rd n => [.host (.regRead n)]
  | .pw i p => [.host (.pinWrite i p)]
  | .pr i => [.host (.pinRead i)]
  | .po i => [.host (.poutRead i)]
  | .tr k => [.host (.toutRead k)]
  | .dims w h => [wrEvent .w w, wrEvent .h h, wrEvent .n (w * h)]
  | .fill a b p => (List.range' a (b - a)).map fun i => .host (.pinWrite i p)
  | .copy n => (List.range n).flatMap fun i => [.host (.poutRead i), .pinWriteLast i]
  | .expectTout a bytes => (List.range' a bytes.length).map fun k => .host (.toutRead k)

/-- What `expect tout` predicts that its reads return (R95). -/
def ScriptLine.predicted (l : ScriptLine) : List Reply :=
  match l with
  | .expectTout _ bytes => bytes.map .byte
  | _ => []

/-- The events of a script: each line's after those of the line before (R63, R94). -/
def expandScript (ls : List ScriptLine) : List Event := ls.flatMap ScriptLine.expand

/-- A machine that the host is about to drive with a script. -/
def State.withScript (s : State) (ls : List ScriptLine) : State := { s with script := expandScript ls ++ s.script }

end Sys2Proof.Machine
end

