-- ==== Sys2Proof/Safety.lean ====
section
/-! DEFINITION. What counts as a good run and a good state, in the terms the statements use. -/

namespace Sys2Proof.Machine

/-- A run of `k` steps has gone well when no step was refused (no step of this machine faults); a non-zero STATUS.ERR is an ordinary outcome (R219). -/
def RunsWell (k : Nat) (s : State) : Prop := ∃ t, Sys2Proof.core.run k s = .next t

/-- The dimensions are acceptable to a command that needs no pixel count: GRID (R141, R181, R183). -/
abbrev State.GridReady (s : State) (pmax : Nat) : Prop :=
  1 ≤ i32 s.w ∧ 1 ≤ i32 s.h ∧ i32 s.w * i32 s.h ≤ pmax

/-- The dimensions and the pixel count are acceptable to QUANT and ENC (R120, R143, R181, R183; R213 (1) and (2)). -/
abbrev State.ImageReady (s : State) (pmax : Nat) : Prop :=
  s.GridReady pmax ∧ i32 s.n = i32 s.w * i32 s.h

/-- The host has written every pixel of the image since reset (R213 (3)). -/
abbrev State.PixelsWritten (s : State) : Prop := ∀ i < s.pixels, (s.pin.read i).isSome = true

/-- STATUS holds one of the four error codes with UNQ = 0, or OK with UNQ = 1; every reserved bit is 0 (R25, R27, U11). -/
abbrev LegalStatus (v : Word) : Prop := ∃ e u, v = statusWord e u ∧ (u = true → e = ErrCode.ok)

/-- The result registers belong together, as numbers, nothing wrapped: TCNT = TCX × TCY, TSIZE = 16 × TCNT, and TCX, TCY and
TCNT are at most PMAX (R24, R139). -/
abbrev State.GridConsistent (s : State) (pmax : Nat) : Prop :=
  s.tcnt.toNat = s.tcx.toNat * s.tcy.toNat ∧ s.tsize.toNat = Config.tileb * s.tcnt.toNat ∧
    s.tcx.toNat ≤ pmax ∧ s.tcy.toNat ≤ pmax ∧ s.tcnt.toNat ≤ pmax

/-- Two windows of a bus do not overlap. -/
abbrev apart (base size base' size' : Nat) : Prop := base + size ≤ base' ∨ base' + size' ≤ base

/-- The four windows of a platform do not overlap (R53; 92_eei_decisions.md, the table of OPEN parameters). -/
structure WindowsApart (p : Platform) : Prop where
  reg_pin : apart p.regBase (4 * Config.nreg) p.pinBase (4 * p.pmax)
  reg_pout : apart p.regBase (4 * Config.nreg) p.poutBase (4 * p.pmax)
  reg_tout : apart p.regBase (4 * Config.nreg) p.toutBase p.tmax
  pin_pout : apart p.pinBase (4 * p.pmax) p.poutBase (4 * p.pmax)
  pin_tout : apart p.pinBase (4 * p.pmax) p.toutBase p.tmax
  pout_tout : apart p.poutBase (4 * p.pmax) p.toutBase p.tmax

/-- The dimensions fail the first check of QUANT and ENC (R181). -/
abbrev State.ImageInvalid (s : State) : Prop := i32 s.w < 1 ∨ i32 s.h < 1 ∨ i32 s.n ≠ i32 s.w * i32 s.h

/-- The dimensions fail the first check of GRID (R181). -/
abbrev State.GridInvalid (s : State) : Prop := i32 s.w < 1 ∨ i32 s.h < 1

/-- The image is too large for the block (R183). -/
abbrev State.TooLarge (s : State) (pmax : Nat) : Prop := (pmax : Int) < i32 s.w * i32 s.h

/-- The bus access stands for this transaction: in the window of its space, at the element's offset (R53), with the size and the
alignment of R59, and with write data exactly where the transaction is a write. -/
def BusAccess.Names (p : Platform) (a : BusAccess) (t : Transaction) : Prop :=
  match t with
  | .regRead n => n < Config.nreg ∧ a = ⟨p.regBase + 4 * n, 4, none⟩ ∧ a.addr % 4 = 0
  | .regWrite n v => n < Config.nreg ∧ a = ⟨p.regBase + 4 * n, 4, some v⟩ ∧ a.addr % 4 = 0
  | .pinRead i => i < p.pmax ∧ a = ⟨p.pinBase + 4 * i, 4, none⟩ ∧ a.addr % 4 = 0
  | .pinWrite i v => i < p.pmax ∧ a = ⟨p.pinBase + 4 * i, 4, some v⟩ ∧ a.addr % 4 = 0
  | .poutRead i => i < p.pmax ∧ a = ⟨p.poutBase + 4 * i, 4, none⟩ ∧ a.addr % 4 = 0
  | .poutWrite i v => i < p.pmax ∧ a = ⟨p.poutBase + 4 * i, 4, some v⟩ ∧ a.addr % 4 = 0
  | .toutRead k => k < p.tmax ∧ a = ⟨p.toutBase + k, 1, none⟩
  | .toutWrite k b => k < p.tmax ∧ ∃ v : Word, a = ⟨p.toutBase + k, 1, some v⟩ ∧ b = v.extractLsb' 0 8

/-- The event is this host access: by (space, index), or as a bus access that the platform's map sends there (R52, R53). -/
abbrev Event.Is (p : Platform) (e : Event) (t : Transaction) : Prop :=
  e = .host t ∨ ∃ a, e = .bus a ∧ busDecode p a = .ok t

/-- The event issues the command `i` (R81). -/
abbrev Event.Issues (p : Platform) (e : Event) (i : Instr) : Prop := Event.Is p e (.regWrite 0 (encode i))

/-- The event writes PIN: a PinWrite in any of its forms (R52, R95). -/
abbrev Event.WritesPin (p : Platform) (e : Event) : Prop :=
  (∃ i v, Event.Is p e (.pinWrite i v)) ∨ ∃ i, e = .pinWriteLast i

/-- The invariant of every reachable state: the memories keep their canonical form and stay inside their spaces (R50, R51), STATUS
is legal (R25), and the result registers belong together (R24). -/
structure State.Inv (s : State) (pmax : Nat) : Prop where
  pin_wf : s.pin.wf
  pout_wf : s.pout.wf
  tout_wf : s.tout.wf
  pin_below : s.pin.below pmax
  pout_below : s.pout.below pmax
  tout_below : s.tout.below (Config.tileb * pmax)
  status_legal : LegalStatus s.status
  grid_consistent : s.GridConsistent pmax

end Sys2Proof.Machine
end

