-- ==== Sys2Proof/Certificates/Slice0/Obligations.lean ====
section
/-! DEFINITION. The statements for the provers, from the numbered rules of spec/. Unless a statement quantifies over a platform, it
is about `Config.platform`, whose every parameter is open: it holds for every PMAX from 1 to 2^26. `s.pinValue i` is the word last
written to PIN[i]; where nothing has written it since reset it is a free value (U6; log 5), and what is said of it holds for every
value. A step takes its event out of the host's script and numbers it: `script := rest, serial := s.serial + 1` is the model's choice
(log 1, log 5), not a rule of the spec. -/

open Sys2Proof Sys2Proof.Machine

/-! ### Encoding -/

/-- R82: the three command words decode to their commands. -/
def Obligations.OpcodeWordsDecode : Prop :=
  decode 0x00000001#32 = .ok .quant ∧ decode 0x00000002#32 = .ok .grid ∧ decode 0x00000003#32 = .ok .enc

/-- R80, R81: decoding an encoded command gives it back, and no other word decodes to it. -/
def Obligations.DecodeInvertsEncode : Prop :=
  ∀ i : Instr, decode (encode i) = .ok i ∧ ∀ v, decode v = .ok i → v = encode i

/-- R84: every other word is reserved; writing it to CMD ends at once with ILLEGAL_CMD and changes nothing else. The step also
takes the write out of the host's script and numbers it (log 1, log 5). -/
def Obligations.ReservedWordIsIllegal : Prop :=
  ∀ v : Word, v ≠ 1#32 → v ≠ 2#32 → v ≠ 3#32 →
    (∃ e, decode v = .error e) ∧
    ∀ (s : State) (rest : List Event), s.script = .host (.regWrite 0 v) :: rest →
      step s = .next { s with status := 3#32, script := rest, serial := s.serial + 1 }

/-- R60, R81: the step at a write of a word that decodes to a command is `exec` of the command, on the state from which the
write has been taken out of the script (log 1) and numbered (log 5). -/
def Obligations.StepRunsDecodedCommand : Prop :=
  ∀ (s : State) (v : Word) (i : Instr) (rest : List Event),
    s.script = .host (.regWrite 0 v) :: rest → decode v = .ok i →
      step s = exec i { s with script := rest, serial := s.serial + 1 }

/-! ### Errors -/

/-- R184, R181, R183: which code a command word leaves in STATUS, whatever the state. A reserved word is ILLEGAL_CMD whatever W, H
and N hold; a mismatch outranks capacity; N does not count for GRID. -/
def Obligations.FirstFailingCheckIsReported : Prop :=
  ∀ (s : State) (v : Word) (rest : List Event), s.script = .host (.regWrite 0 v) :: rest →
    ∃ t, step s = .next t ∧
      (v ≠ 1#32 → v ≠ 2#32 → v ≠ 3#32 → t.status = 3#32) ∧
      (v = 1#32 ∨ v = 3#32 →
        (s.ImageInvalid → t.status = 1#32) ∧
        (¬ s.ImageInvalid → s.TooLarge Config.platform.pmax → t.status = 2#32) ∧
        (¬ s.ImageInvalid → ¬ s.TooLarge Config.platform.pmax → t.err = 0#2)) ∧
      (v = 2#32 →
        (s.GridInvalid → t.status = 1#32) ∧
        (¬ s.GridInvalid → s.TooLarge Config.platform.pmax → t.status = 2#32) ∧
        (¬ s.GridInvalid → ¬ s.TooLarge Config.platform.pmax → t.err = 0#2))

/-- R185: a command that ends with an error has written STATUS and nothing else, and STATUS is the code with UNQ and every reserved
bit 0. The step also takes the write out of the script and numbers it. -/
def Obligations.ErrorWritesOnlyStatus : Prop :=
  ∀ (s t : State) (v : Word) (rest : List Event), s.script = .host (.regWrite 0 v) :: rest → step s = .next t → t.err ≠ 0#2 →
    t = { s with status := t.err.setWidth 32, script := rest, serial := s.serial + 1 }

/-- R26: no command's behaviour depends on the previous value of STATUS. -/
def Obligations.OldStatusIsNeverRead : Prop :=
  ∀ (i : Instr) (s : State) (v : Word), exec i { s with status := v } = exec i s

/-- R22, R33: no command writes W, H, N or PIN, nor what belongs to the host's side of the model. -/
def Obligations.CommandsKeepTheirOperands : Prop :=
  ∀ (i : Instr) (s t : State), exec i s = .next t →
    t.w = s.w ∧ t.h = s.h ∧ t.n = s.n ∧ t.pin = s.pin ∧ t.script = s.script ∧ t.replies = s.replies ∧ t.serial = s.serial

/-! ### The commands -/

/-- R120, whole: QUANT's two errors, and otherwise the quantized image in POUT[0 … W×H−1], STATUS = 0, and nothing else changed. -/
def Obligations.QuantOutcome : Prop :=
  ∀ s : State,
    (s.ImageInvalid → exec .quant s = .next { s with status := 1#32 }) ∧
    (¬ s.ImageInvalid → s.TooLarge Config.platform.pmax → exec .quant s = .next { s with status := 2#32 }) ∧
    (s.ImageReady Config.platform.pmax →
      ∃ t, exec .quant s = .next t ∧ t = { s with pout := t.pout, status := 0#32 } ∧
        (∀ i < s.pixels, t.pout.read i = some (qpix (s.pinValue i))) ∧
        (∀ i p, i < s.pixels → s.pin.read i = some p → t.pout.read i = some (qpix p)) ∧
        (∀ i, s.pixels ≤ i → t.pout.read i = s.pout.read i))

/-- R141, whole: GRID's two errors, and otherwise the four result registers, as numbers, STATUS = 0, and nothing else changed. N is
not examined. -/
def Obligations.GridOutcome : Prop :=
  ∀ s : State,
    (s.GridInvalid → exec .grid s = .next { s with status := 1#32 }) ∧
    (¬ s.GridInvalid → s.TooLarge Config.platform.pmax → exec .grid s = .next { s with status := 2#32 }) ∧
    (s.GridReady Config.platform.pmax →
      ∃ t, exec .grid s = .next t ∧
        t = { s with tcx := t.tcx, tcy := t.tcy, tcnt := t.tcnt, tsize := t.tsize, status := 0#32 } ∧
        t.tcx.toNat = (s.width + 7) / 8 ∧ t.tcy.toNat = (s.height + 7) / 8 ∧
        t.tcnt.toNat = t.tcx.toNat * t.tcy.toNat ∧ t.tsize.toNat = t.tcnt.toNat * 16)

/-- R143 without the value of the bytes and of UNQ (the next statements): ENC's two errors, and otherwise every byte below TSIZE
written, every other byte kept, the four result registers, ERR = OK, and nothing else changed. -/
def Obligations.EncOutcome : Prop :=
  ∀ s : State,
    (s.ImageInvalid → exec .enc s = .next { s with status := 1#32 }) ∧
    (¬ s.ImageInvalid → s.TooLarge Config.platform.pmax → exec .enc s = .next { s with status := 2#32 }) ∧
    (s.ImageReady Config.platform.pmax →
      ∃ t, exec .enc s = .next t ∧
        t = { s with tout := t.tout, tcx := t.tcx, tcy := t.tcy, tcnt := t.tcnt, tsize := t.tsize, status := t.status } ∧
        t.err = 0#2 ∧
        t.tcx.toNat = (s.width + 7) / 8 ∧ t.tcy.toNat = (s.height + 7) / 8 ∧
        t.tcnt.toNat = t.tcx.toNat * t.tcy.toNat ∧ t.tsize.toNat = t.tcnt.toNat * 16 ∧
        (∀ k < t.tsize.toNat, (t.tout.read k).isSome = true) ∧
        (∀ k, t.tsize.toNat ≤ k → t.tout.read k = s.tout.read k))

/-- R138, whole: after a successful ENC every byte of the stream has the closed form, and each tile row's pair stands at its index.
The loop nest of ENC and the closed form agree. -/
def Obligations.StreamHasClosedForm : Prop :=
  ∀ s : State, s.ImageReady Config.platform.pmax →
    ∃ t, exec .enc s = .next t ∧
      (∀ k < t.tsize.toNat,
        t.tout.read k = some
          (if k % 2 = 0
            then (packRow s.pinValue s.width s.height (k / 16 % t.tcx.toNat) (k / 16 / t.tcx.toNat) (k % 16 / 2)).1
            else (packRow s.pinValue s.width s.height (k / 16 % t.tcx.toNat) (k / 16 / t.tcx.toNat) (k % 16 / 2)).2)) ∧
      (∀ tx ty r, tx < t.tcx.toNat → ty < t.tcy.toNat → r < 8 →
        t.tout.read (16 * (ty * t.tcx.toNat + tx) + 2 * r) = some (packRow s.pinValue s.width s.height tx ty r).1 ∧
        t.tout.read (16 * (ty * t.tcx.toNat + tx) + 2 * r + 1) = some (packRow s.pinValue s.width s.height tx ty r).2)

/-- R92, with R55 and R130: reading the stream back recovers the palette index of every pixel of the image, for every width and height.
That the pixel at (x, y) is element y × W + x of PIN is log 10 (PRESUMED: R55 marks it as general knowledge). -/
def Obligations.ReadBackRecoversEveryPixel : Prop :=
  ∀ s : State, s.ImageReady Config.platform.pmax →
    ∃ t, exec .enc s = .next t ∧
      ∀ x y, x < s.width → y < s.height →
        readBack t.toutValue t.tcx.toNat x y = (cidx (pixColor (s.pinValue (y * s.width + x)))).val

/-- R144: STATUS after a successful ENC is 0x10 if some in-bounds pixel equals no palette entry, and 0 otherwise. -/
def Obligations.UnqReportsUnquantizedPixels : Prop :=
  ∀ s : State, s.ImageReady Config.platform.pmax →
    ∃ t, exec .enc s = .next t ∧
      ((∃ x y, x < s.width ∧ y < s.height ∧ ∀ k, pixColor (s.pinValue (y * s.width + x)) ≠ pal k) → t.status = 0x10#32) ∧
      ((∀ x y, x < s.width → y < s.height → ∃ k, pixColor (s.pinValue (y * s.width + x)) = pal k) → t.status = 0#32)

/-- R135: a position outside the image contributes a 0 bit in both planes. -/
def Obligations.PaddingIsZeroInBothPlanes : Prop :=
  ∀ s : State, s.ImageReady Config.platform.pmax →
    ∃ t, exec .enc s = .next t ∧
      ∀ tx ty row col, tx < t.tcx.toNat → ty < t.tcy.toNat → row < 8 → col < 8 →
        s.width ≤ 8 * tx + col ∨ s.height ≤ 8 * ty + row →
          (t.toutValue (16 * (ty * t.tcx.toNat + tx) + 2 * row)).getLsbD (7 - col) = false ∧
          (t.toutValue (16 * (ty * t.tcx.toNat + tx) + 2 * row + 1)).getLsbD (7 - col) = false

/-- R145 (b), R87: two input memories that hold the same colours give the same ENC, whatever their alpha. -/
def Obligations.AlphaNeverReachesTheTiles : Prop :=
  ∀ (s : State) (m : Memory 32), s.ImageReady Config.platform.pmax →
    (∀ j < s.pixels, pixColor ({ s with pin := m }.pinValue j) = pixColor (s.pinValue j)) →
      ∃ t, exec .enc s = .next t ∧ exec .enc { s with pin := m } = .next { t with pin := m }

/-- R33: the commands read PIN below W × H and nowhere else. -/
def Obligations.PixelsBeyondTheImageAreIgnored : Prop :=
  ∀ (i : Instr) (s : State) (m : Memory 32), (∀ j < s.pixels, m.read j = s.pin.read j) →
    ∃ t, exec i s = .next t ∧ exec i { s with pin := m } = .next { t with pin := m }

/-- R220, R213 (3): on an image that the host has written whole, a command is a function of the state alone: no free value of
unwritten storage, which the model numbers by `serial` (log 5), reaches its result. -/
def Obligations.WrittenImageLeavesNothingOpen : Prop :=
  ∀ (i : Instr) (s : State) (k : Nat), s.PixelsWritten →
    ∃ t, exec i s = .next t ∧ exec i { s with serial := k } = .next { t with serial := k }

/-- R62: every command is idempotent in its effect, on memories in their canonical form. -/
def Obligations.CommandsAreIdempotent : Prop :=
  ∀ (i : Instr) (s t : State), s.pout.wf → s.tout.wf → exec i s = .next t → exec i t = .next t

/-- R121 (c), R117 (b): quantizing an image of palette colours copies it bit for bit. -/
def Obligations.QuantizedImageIsUnchanged : Prop :=
  ∀ s : State, s.ImageReady Config.platform.pmax → (∀ j < s.pixels, ∃ k, pixColor (s.pinValue j) = pal k) →
    ∃ t, exec .quant s = .next t ∧ ∀ j < s.pixels, t.pout.read j = some (s.pinValue j)

/-- R121 (a): QUANT depends on W and H through validation and their product only. -/
def Obligations.QuantIgnoresTheShape : Prop :=
  ∀ (s : State) (w' h' : Word), s.ImageReady Config.platform.pmax → { s with w := w', h := h' }.ImageReady Config.platform.pmax →
    ∃ t, exec .quant s = .next t ∧ exec .quant { s with w := w', h := h' } = .next { t with w := w', h := h' }

/-- R142 (c), D24: the numbers GRID reports are those ENC produces on the same dimensions. -/
def Obligations.GridForetellsEnc : Prop :=
  ∀ s : State, s.ImageReady Config.platform.pmax →
    ∃ g e, exec .grid s = .next g ∧ exec .enc s = .next e ∧
      g.tcx = e.tcx ∧ g.tcy = e.tcy ∧ g.tcnt = e.tcnt ∧ g.tsize = e.tsize

/-- R67: QUANT's pixels may be evaluated and written in any order. -/
def Obligations.AnyPixelOrderGivesTheSameImage : Prop :=
  ∀ (pin : Nat → Word) (n : Nat) (m : Memory 32) (order : List Nat), m.wf → order.Perm (List.range n) →
    order.foldl (fun a i => a.write i (qpix (pin i))) m = quantLoop pin n m

/-- R136 (corner cases), C2: an 8 × 8 image of one palette colour, on any platform that can hold it, gives eight times the pair
FF FF for index 3, 00 FF for index 2, FF 00 for index 1, 00 00 for index 0. -/
def Obligations.SolidTileBytes : Prop :=
  ∀ (p : Platform) (s : State) (k : Fin 4), 64 ≤ p.pmax → s.w = 8#32 → s.h = 8#32 → s.n = 64#32 →
    (∀ j < 64, pixColor (s.pinValue j) = pal k) →
      ∃ t, execAt p .enc s = .next t ∧ t.tsize = 16#32 ∧ t.status = 0#32 ∧
        ∀ r < 8,
          t.tout.read (2 * r) = some (if k.val % 2 = 1 then 0xFF#8 else 0x00#8) ∧
          t.tout.read (2 * r + 1) = some (if k.val / 2 = 1 then 0xFF#8 else 0x00#8)

/-! ### The functions -/

/-- R30, R31 (a): the palette's values, pairwise distinct. -/
def Obligations.PaletteTable : Prop :=
  (pal 0 = ⟨155#8, 188#8, 15#8⟩ ∧ pal 1 = ⟨139#8, 172#8, 15#8⟩ ∧ pal 2 = ⟨48#8, 98#8, 48#8⟩ ∧ pal 3 = ⟨15#8, 56#8, 15#8⟩) ∧
    ∀ j k, pal j = pal k → j = k

/-- R110 (corner cases), R116: DIST2 is symmetric, zero only on equal colours, and within its stated ranges. -/
def Obligations.SquaredDistanceLaws : Prop :=
  (∀ c p : Color, dist2 c p = dist2 p c ∧ (dist2 c p = 0 ↔ c = p) ∧ 0 ≤ dist2 c p ∧ dist2 c p ≤ 195075) ∧
    ∀ (c : Color) (k : Fin 4), dist2 c (pal k) ≤ 154801

/-- R113: NEAREST is the lowest-numbered entry among those at the minimum distance. -/
def Obligations.NearestIsLeastMinimum : Prop :=
  ∀ (c : Color) (k : Fin 4),
    nearest c = k ↔ (∀ j, dist2 c (pal k) ≤ dist2 c (pal j)) ∧ ∀ j < k, dist2 c (pal k) < dist2 c (pal j)

/-- R111: comparing the document's square-root distances over the reals chooses the same entry. -/
def Obligations.SquareRootChoosesTheSameEntry : Prop :=
  let distance : Color → Color → ℝ := fun c p =>
    Real.sqrt (((c.r.toNat : ℝ) - p.r.toNat) ^ 2 + ((c.g.toNat : ℝ) - p.g.toNat) ^ 2 + ((c.b.toNat : ℝ) - p.b.toNat) ^ 2)
  ∀ (c : Color) (k : Fin 4),
    nearest c = k ↔ (∀ j, distance c (pal k) ≤ distance c (pal j)) ∧ ∀ j < k, distance c (pal k) < distance c (pal j)

/-- R115: the colour of a quantized pixel is the nearest palette colour, and its alpha is the old one, bit for bit. -/
def Obligations.QpixReplacesColorKeepsAlpha : Prop :=
  ∀ p : Word, pixColor (qpix p) = pal (nearest (pixColor p)) ∧ pixA (qpix p) = pixA p

/-- R117 (a), (b), (c): fixed points, idempotence, closure. -/
def Obligations.QuantizationLaws : Prop :=
  (∀ k, nearest (pal k) = k) ∧ (∀ p, qpix (qpix p) = qpix p) ∧ ∀ p, ∃ k, pixColor (qpix p) = pal k

/-- R118 without its counts: the sets of entries that are tied at the minimum are {0,1}, {1,2}, {2,3}, {0,2} and {0,1,2}, and no
other; each of them occurs, {0,2} at (88, 241, 255) alone and {0,1,2} at (85, 242, 248) alone. In particular 0 and 3, and 1 and 3, are
never tied at the minimum. -/
def Obligations.TiesOfThePalette : Prop :=
  let atMinimum : Color → Finset (Fin 4) := fun c => Finset.univ.filter fun k => ∀ j, dist2 c (pal k) ≤ dist2 c (pal j)
  (∀ c, 2 ≤ (atMinimum c).card →
    atMinimum c = {0, 1} ∨ atMinimum c = {1, 2} ∨ atMinimum c = {2, 3} ∨ atMinimum c = {0, 2} ∨ atMinimum c = {0, 1, 2}) ∧
  (∃ c, atMinimum c = {0, 1}) ∧ (∃ c, atMinimum c = {1, 2}) ∧ (∃ c, atMinimum c = {2, 3}) ∧
  (∀ c, atMinimum c = {0, 2} ↔ c = ⟨88#8, 241#8, 255#8⟩) ∧
  (∀ c, atMinimum c = {0, 1, 2} ↔ c = ⟨85#8, 242#8, 248#8⟩)

/-- R130: CIDX is an exact match on all three channels, and 0 for every other colour. -/
def Obligations.ExactMatchOrZero : Prop :=
  (∀ k, cidx (pal k) = k) ∧ ∀ c, (∀ k, c ≠ pal k) → cidx c = 0

/-- R132: the tile counts are the ceilings of W / 8 and H / 8. -/
def Obligations.TileGridIsTheCeiling : Prop :=
  ∀ width height : Nat, 1 ≤ width → 1 ≤ height →
    ((tgrid width height).1 : ℤ) = ⌈(width : ℚ) / 8⌉ ∧ ((tgrid width height).2 : ℤ) = ⌈(height : ℚ) / 8⌉

/-- R11: an image never has more tiles than pixels, so TOUT always holds its stream. -/
def Obligations.StreamFitsTout : Prop :=
  ∀ (p : Platform) (width height : Nat), 1 ≤ width → 1 ≤ height → width * height ≤ p.pmax →
    1 ≤ (tgrid width height).1 * (tgrid width height).2 ∧ 16 * ((tgrid width height).1 * (tgrid width height).2) ≤ p.tmax

/-- R137, whole: the two bytes of a tile row as sums, and bit by bit. -/
def Obligations.PackedRowBits : Prop :=
  ∀ (pin : Nat → Word) (width height tx ty row : Nat),
    let i := fun col => (idxAt pin width height (8 * tx + col) (8 * ty + row)).val
    let bytes := packRow pin width height tx ty row
    bytes.1.toNat = ∑ col ∈ Finset.range 8, i col % 2 * 2 ^ (7 - col) ∧
    bytes.2.toNat = ∑ col ∈ Finset.range 8, i col / 2 % 2 * 2 ^ (7 - col) ∧
    ∀ col < 8, bytes.1.getLsbD (7 - col) = (i col).testBit 0 ∧ bytes.2.getLsbD (7 - col) = (i col).testBit 1

/-! ### Transactions -/

/-- R22, R52: a write of W, H or N stores all 32 bits and changes nothing else. -/
def Obligations.OperandWriteStoresTheWord : Prop :=
  ∀ (s : State) (v : Word) (rest : List Event),
    (s.script = .host (.regWrite 2 v) :: rest → step s = .next { s with w := v, script := rest, serial := s.serial + 1 }) ∧
    (s.script = .host (.regWrite 3 v) :: rest → step s = .next { s with h := v, script := rest, serial := s.serial + 1 }) ∧
    (s.script = .host (.regWrite 4 v) :: rest → step s = .next { s with n := v, script := rest, serial := s.serial + 1 })

/-- R21, R52: a read of register n, 1 to 8, returns its value (here: appends it to the replies, log 3) with no side effect. -/
def Obligations.RegisterReadReturnsTheWord : Prop :=
  ∀ (s : State) (n : Nat) (rest : List Event), 1 ≤ n → n ≤ 8 → s.script = .host (.regRead n) :: rest →
    ∃ v, [s.status, s.w, s.h, s.n, s.tcx, s.tcy, s.tcnt, s.tsize][n - 1]? = some v ∧
      step s = .next { s with replies := s.replies ++ [.word v], script := rest, serial := s.serial + 1 }

/-- R33, R36, R52: a PIN write in range stores the word at its index, leaves every other element, and changes nothing else. -/
def Obligations.PinWriteStoresOneElement : Prop :=
  ∀ (s : State) (i : Nat) (p : Word) (rest : List Event), i < Config.platform.pmax → s.script = .host (.pinWrite i p) :: rest →
    ∃ t, step s = .next t ∧ t = { s with pin := t.pin, script := rest, serial := s.serial + 1 } ∧
      t.pin.read i = some p ∧ ∀ j, j ≠ i → t.pin.read j = s.pin.read j

/-- R36, R52, R62: a read of an element in range returns what was last written to it, with no side effect. An element that nothing
has written answers too, with an open value (log 5). -/
def Obligations.BufferReadsReturnTheContents : Prop :=
  ∀ (s : State) (i : Nat) (rest : List Event),
    (i < Config.platform.pmax → s.script = .host (.pinRead i) :: rest →
      ∃ v, (∀ u, s.pin.read i = some u → v = u) ∧
        step s = .next { s with replies := s.replies ++ [.word v], script := rest, serial := s.serial + 1 }) ∧
    (i < Config.platform.pmax → s.script = .host (.poutRead i) :: rest →
      ∃ v, (∀ u, s.pout.read i = some u → v = u) ∧
        step s = .next { s with replies := s.replies ++ [.word v], script := rest, serial := s.serial + 1 }) ∧
    (i < Config.platform.tmax → s.script = .host (.toutRead i) :: rest →
      ∃ v, (∀ u, s.tout.read i = some u → v = u) ∧
        step s = .next { s with replies := s.replies ++ [.byte v], script := rest, serial := s.serial + 1 })

/-- R52, R189: the transactions of the interface, and only they, answer a next state. -/
def Obligations.InterfaceIsExactlyItsTransactions : Prop :=
  ∀ (s : State) (t : Transaction) (rest : List Event), s.script = .host t :: rest →
    (t.wf Config.platform.pmax = true ↔ ∃ s', step s = .next s')

/-- R189, U8: how each access outside the interface stops, by (space, index); every one is refused. The names of the refusals are the
model's choice (log 8, log 9); what the PIN write of `copy` does out of range is CopyWritesTheWordRead. -/
def Obligations.OutsideAccessesStopByName : Prop :=
  ∀ (s : State) (rest : List Event),
    (s.script = .host (.regRead 0) :: rest → step s = .refused .readOfCmd) ∧
    (∀ n v, n = 1 ∨ 5 ≤ n ∧ n ≤ 8 → s.script = .host (.regWrite n v) :: rest → step s = .refused (.writeOfReadOnly n)) ∧
    (∀ n v, 9 ≤ n → s.script = .host (.regWrite n v) :: rest → step s = .refused (.noSuchRegister n)) ∧
    (∀ n, 9 ≤ n → s.script = .host (.regRead n) :: rest → step s = .refused (.noSuchRegister n)) ∧
    (∀ i v, Config.platform.pmax ≤ i → s.script = .host (.pinWrite i v) :: rest → step s = .refused (.noSuchElement .pin i)) ∧
    (∀ i, Config.platform.pmax ≤ i → s.script = .host (.pinRead i) :: rest → step s = .refused (.noSuchElement .pin i)) ∧
    (∀ i, Config.platform.pmax ≤ i → s.script = .host (.poutRead i) :: rest → step s = .refused (.noSuchElement .pout i)) ∧
    (∀ k, Config.platform.tmax ≤ k → s.script = .host (.toutRead k) :: rest → step s = .refused (.noSuchElement .tout k)) ∧
    (∀ i v, i < Config.platform.pmax → s.script = .host (.poutWrite i v) :: rest → step s = .refused (.writeOfPout i)) ∧
    (∀ i v, Config.platform.pmax ≤ i → s.script = .host (.poutWrite i v) :: rest → step s = .refused (.noSuchElement .pout i)) ∧
    (∀ k b, k < Config.platform.tmax → s.script = .host (.toutWrite k b) :: rest → step s = .refused (.writeOfTout k)) ∧
    (∀ k b, Config.platform.tmax ≤ k → s.script = .host (.toutWrite k b) :: rest → step s = .refused (.noSuchElement .tout k))

/-- R24, R33, R34, R35, R22, R25, over every step: only a PIN write changes PIN, only QUANT changes POUT, only ENC changes TOUT, only
GRID and ENC change the result registers, only a write of CMD changes STATUS, only their own write changes W, H and N; reset
apart. That a step without an event leaves the state is log 2 (DEDUCED from R220), and that the second half of `copy` (R95) is an event
of its own, `pinWriteLast`, counted here as a PIN write, is log 16 (DESIGN CHOICE). -/
def Obligations.EveryStoreHasItsOneWriter : Prop :=
  ∀ s t : State, step s = .next t →
    (s.script = [] ∧ t = s) ∨
    ∃ e rest, s.script = e :: rest ∧
      (e = .reset ∨
        (t.pin ≠ s.pin → Event.WritesPin Config.platform e) ∧
        (t.pout ≠ s.pout → Event.Issues Config.platform e .quant) ∧
        (t.tout ≠ s.tout → Event.Issues Config.platform e .enc) ∧
        (t.tcx ≠ s.tcx ∨ t.tcy ≠ s.tcy ∨ t.tcnt ≠ s.tcnt ∨ t.tsize ≠ s.tsize →
          Event.Issues Config.platform e .grid ∨ Event.Issues Config.platform e .enc) ∧
        (t.status ≠ s.status → ∃ v, Event.Is Config.platform e (.regWrite 0 v)) ∧
        (t.w ≠ s.w → ∃ v, Event.Is Config.platform e (.regWrite 2 v)) ∧
        (t.h ≠ s.h → ∃ v, Event.Is Config.platform e (.regWrite 3 v)) ∧
        (t.n ≠ s.n → ∃ v, Event.Is Config.platform e (.regWrite 4 v)))

/-- R53: on a bus whose windows do not overlap, the address of each element, with the size of its space, is that element's
transaction, where the window of 32-bit elements has a base that is a multiple of 4. Where it has not, R59 puts each of these
addresses outside the interface (BusAccessOutsideTheRuleNamesNothing). -/
def Obligations.BusOffsetsNameTheElements : Prop :=
  ∀ p : Platform, WindowsApart p →
    (p.regBase % 4 = 0 → ∀ n v, n < 9 → busDecode p ⟨p.regBase + 4 * n, 4, none⟩ = .ok (.regRead n) ∧
      busDecode p ⟨p.regBase + 4 * n, 4, some v⟩ = .ok (.regWrite n v)) ∧
    (p.pinBase % 4 = 0 → ∀ i v, i < p.pmax → busDecode p ⟨p.pinBase + 4 * i, 4, none⟩ = .ok (.pinRead i) ∧
      busDecode p ⟨p.pinBase + 4 * i, 4, some v⟩ = .ok (.pinWrite i v)) ∧
    (p.poutBase % 4 = 0 → ∀ i, i < p.pmax → busDecode p ⟨p.poutBase + 4 * i, 4, none⟩ = .ok (.poutRead i)) ∧
    (∀ k, k < p.tmax → busDecode p ⟨p.toutBase + k, 1, none⟩ = .ok (.toutRead k))

/-- R53, R59: a bus access that names a transaction is performed as that transaction, and stands where R53 puts its element, with the
size and the alignment of R59 (`BusAccess.Names`); every other bus access is refused (the refusals' names, and the order in which
overlapping windows are tried, are the model's choice: log 9, log 15). On every platform; `step` is the case of `Config.platform` and
`exec`. -/
def Obligations.BusAccessIsItsTransaction : Prop :=
  ∀ (p : Platform) (run : Instr → State → Result) (s : State) (a : BusAccess) (rest : List Event), s.script = .bus a :: rest →
    (∀ t, busDecode p a = .ok t →
      stepWith p run s = stepWith p run { s with script := .host t :: rest } ∧ BusAccess.Names p a t) ∧
    (∀ r, busDecode p a = .error r → stepWith p run s = .refused r)

/-! ### Reset, invariant, runs -/

/-- R39, whole: every register is zero after reset and nothing is written in any memory; a command issued before the host sets
dimensions ends with INVALID_DIMENSIONS and writes nothing else. -/
def Obligations.ResetValues : Prop :=
  (State.reset.status = 0#32 ∧ State.reset.w = 0#32 ∧ State.reset.h = 0#32 ∧ State.reset.n = 0#32 ∧
    State.reset.tcx = 0#32 ∧ State.reset.tcy = 0#32 ∧ State.reset.tcnt = 0#32 ∧ State.reset.tsize = 0#32 ∧
    ∀ i, State.reset.pin.read i = none ∧ State.reset.pout.read i = none ∧ State.reset.tout.read i = none) ∧
  ∀ i : Instr, exec i State.reset = .next { State.reset with status := 1#32 }

/-- R210, R211: a reset event leaves the state after reset, whatever the memories held; what the host still means to do, has seen, and
the numbering of free values stay (the model's choice, log 13). -/
def Obligations.ResetEventRestoresReset : Prop :=
  ∀ (s : State) (rest : List Event), s.script = .reset :: rest →
    step s = .next { State.reset with script := rest, replies := s.replies, serial := s.serial + 1 }

/-- R220: between events nothing moves; the step without an event leaves the state (the model's choice, log 2). -/
def Obligations.NothingMovesWithoutAnEvent : Prop :=
  ∀ s : State, s.script = [] → step s = .next s

/-- The invariant holds at reset: STATUS is legal (R39, R25), the result registers belong together (R39, R24), and the memories, in which
nothing is written (R39), stay inside their spaces (R50, R51) and in the canonical form, which is the model's own (log 7). -/
def Obligations.ResetSatisfiesTheInvariant : Prop :=
  State.reset.Inv Config.platform.pmax

/-- Every step keeps the invariant, from every state that has it: the memories stay canonical and inside their spaces (R50, R51),
STATUS stays legal (R25, R27), the result registers stay consistent and unwrapped (R24, R139). -/
def Obligations.EveryStepKeepsTheInvariant : Prop :=
  ∀ s t : State, s.Inv Config.platform.pmax → step s = .next t → t.Inv Config.platform.pmax

/-! ### The listing (host software) -/

/-- R162: the sanitisation keeps the length, keeps ASCII letters, digits and the underscore, and turns every other character into one
underscore. -/
def Obligations.SanitizeActsCharacterwise : Prop :=
  ∀ name : Text, (sanitize name).length = name.length ∧
    ∀ (j : Nat) (c : Char), name[j]? = some c →
      (('A' ≤ c ∧ c ≤ 'Z') ∨ ('a' ≤ c ∧ c ≤ 'z') ∨ ('0' ≤ c ∧ c ≤ '9') ∨ c = '_' → (sanitize name)[j]? = some c) ∧
      (¬ (('A' ≤ c ∧ c ≤ 'Z') ∨ ('a' ≤ c ∧ c ≤ 'z') ∨ ('0' ≤ c ∧ c ≤ '9') ∨ c = '_') → (sanitize name)[j]? = some '_')

/-- R165: the stream of n tiles is printed in 2n full lines of 8 values, in order. -/
def Obligations.ListingLinesHoldEightValues : Prop :=
  ∀ (bytes : List Byte) (n : Nat), bytes.length = 16 * n →
    (linesOf8 bytes.length bytes).length = 2 * n ∧ (∀ l ∈ linesOf8 bytes.length bytes, l.length = 8) ∧
      (linesOf8 bytes.length bytes).flatten = bytes

/-! ### The copy, and bus accesses outside the rule -/

/-- R95, R215: one round of `copy` reads POUT[i] and writes the word read, unchanged, to PIN[i]; it writes no other element and changes
nothing else. The event `pinWriteLast`, which writes the word that the host's last read returned, and its refusals, where there is no
such word or the index is out of range, are the model's choice (log 16, log 8), as are the script, the replies and the numbering
(log 1, log 3, log 5). -/
def Obligations.CopyWritesTheWordRead : Prop :=
  ∀ (s : State) (i : Nat) (rest : List Event),
    (∀ v, i < Config.platform.pmax → s.script = .pinWriteLast i :: rest → s.replies.getLast? = some (.word v) →
      ∃ t, step s = .next t ∧ t = { s with pin := t.pin, script := rest, serial := s.serial + 1 } ∧
        t.pin.read i = some v ∧ ∀ j, j ≠ i → t.pin.read j = s.pin.read j) ∧
    (∀ v, Config.platform.pmax ≤ i → s.script = .pinWriteLast i :: rest → s.replies.getLast? = some (.word v) →
      step s = .refused (.noSuchElement .pin i)) ∧
    ((∀ v, s.replies.getLast? ≠ some (.word v)) → s.script = .pinWriteLast i :: rest → step s = .refused .noWordToWrite) ∧
    (i < Config.platform.pmax → s.script = .host (.poutRead i) :: .pinWriteLast i :: rest →
      ∃ v t u, (∀ p, s.pout.read i = some p → v = p) ∧ step s = .next t ∧ step t = .next u ∧
        u = { s with pin := u.pin, replies := s.replies ++ [.word v], script := rest, serial := s.serial + 2 } ∧
        u.pin.read i = some v ∧ ∀ j, j ≠ i → u.pin.read j = s.pin.read j)

/-- R59: on a bus whose windows do not overlap, an access in a window of registers or pixel words whose byte address is not a multiple of
4, or whose size is not 4 bytes, and an access in the window of TOUT whose size is not 1 byte, names no transaction. -/
def Obligations.BusAccessOutsideTheRuleNamesNothing : Prop :=
  ∀ (p : Platform) (a : BusAccess), WindowsApart p →
    ((p.regBase ≤ a.addr ∧ a.addr < p.regBase + 36 ∨ p.pinBase ≤ a.addr ∧ a.addr < p.pinBase + 4 * p.pmax ∨
        p.poutBase ≤ a.addr ∧ a.addr < p.poutBase + 4 * p.pmax) →
      a.addr % 4 ≠ 0 ∨ a.size ≠ 4 → ∀ t, busDecode p a ≠ .ok t) ∧
    (p.toutBase ≤ a.addr ∧ a.addr < p.toutBase + p.tmax → a.size ≠ 1 → ∀ t, busDecode p a ≠ .ok t)
end

