-- ==== Sys2Proof/Laws/Memory.lean ====
section
/-! SUPPORT. The laws of memory: read after write, the canonical form, extensionality, and what a loop of writes leaves. -/

namespace Sys2Proof.Machine

variable {w : Nat}

@[simp] theorem Memory.read_nil (i : Nat) : Memory.read ([] : Memory w) i = none := rfl

/-- Read after write, at the same index and at every other one. It holds of any list, canonical or not. -/
theorem Memory.read_write (m : Memory w) (i j : Nat) (v : BitVec w) :
    (m.write i v).read j = if j = i then some v else m.read j := by
  induction m with
  | nil => simp [Memory.write, Memory.read]
  | cons c rest ih =>
    obtain ⟨k, u⟩ := c
    simp only [Memory.write]
    split
    · simp only [Memory.read]
    · split
      · subst k; simp only [Memory.read]; split <;> rfl
      · simp only [Memory.read, ih]
        split
        · subst j; rw [if_neg]; omega
        · rfl

theorem Memory.read_write_same (m : Memory w) (i : Nat) (v : BitVec w) : (m.write i v).read i = some v := by
  simp [Memory.read_write]

theorem Memory.read_write_of_ne (m : Memory w) {i j : Nat} (v : BitVec w) (h : j ≠ i) : (m.write i v).read j = m.read j := by
  simp [Memory.read_write, h]

/-- An entry of a written memory is the written one or an old one. -/
theorem Memory.mem_write {m : Memory w} {i : Nat} {v : BitVec w} {c : Nat × BitVec w} (h : c ∈ m.write i v) :
    c = (i, v) ∨ c ∈ m := by
  induction m with
  | nil => simpa [Memory.write] using h
  | cons d rest ih =>
    obtain ⟨k, u⟩ := d
    simp only [Memory.write] at h
    split at h
    · simpa using h
    · split at h
      · rcases List.mem_cons.1 h with h | h
        · exact .inl h
        · exact .inr (List.mem_cons_of_mem _ h)
      · rcases List.mem_cons.1 h with h | h
        · exact .inr (h ▸ List.mem_cons_self ..)
        · exact (ih h).imp_right (List.mem_cons_of_mem _)

/-- A write keeps the canonical form. -/
theorem Memory.wf_write {m : Memory w} (h : m.wf) (i : Nat) (v : BitVec w) : (m.write i v).wf := by
  induction m with
  | nil => simp [Memory.write, Memory.wf]
  | cons d rest ih =>
    obtain ⟨k, u⟩ := d
    obtain ⟨hk, hr⟩ := List.pairwise_cons.1 h
    simp only [Memory.write]
    split
    next hlt =>
      refine List.pairwise_cons.2 ⟨fun c hc => ?_, h⟩
      rcases List.mem_cons.1 hc with rfl | hc
      · exact hlt
      · exact lt_trans hlt (hk c hc)
    next hge =>
      split
      next heq => exact List.pairwise_cons.2 ⟨fun c hc => by have := hk c hc; simp only at this ⊢; omega, hr⟩
      next hne =>
        refine List.pairwise_cons.2 ⟨fun c hc => ?_, ih hr⟩
        rcases Memory.mem_write hc with rfl | hc
        · simp only; omega
        · exact hk c hc

/-- A write inside the space keeps every index inside it. -/
theorem Memory.below_write {m : Memory w} {bound i : Nat} (h : m.below bound) (hi : i < bound) (v : BitVec w) :
    (m.write i v).below bound := by
  intro c hc
  rcases Memory.mem_write hc with rfl | hc
  · exact hi
  · exact h c hc

theorem Memory.wf_nil : Memory.wf ([] : Memory w) := List.Pairwise.nil

/-- In a canonical memory no index before the first entry is listed. -/
theorem Memory.read_eq_none_of_lt {m : Memory w} {i : Nat} (h : ∀ c ∈ m, i < c.1) : m.read i = none := by
  induction m with
  | nil => rfl
  | cons d rest ih =>
    have hd := h d (List.mem_cons_self ..)
    simp only [Memory.read]
    rw [if_neg (by omega)]
    exact ih fun c hc => h c (List.mem_cons_of_mem _ hc)

/-- Canonical memories that read alike are the same list. -/
theorem Memory.ext_of_read {m m' : Memory w} (h : m.wf) (h' : m'.wf) (hr : ∀ i, m.read i = m'.read i) : m = m' := by
  induction m generalizing m' with
  | nil =>
    cases m' with
    | nil => rfl
    | cons d rest => have := hr d.1; simp [Memory.read] at this
  | cons c rest ih =>
    cases m' with
    | nil => have := hr c.1; simp [Memory.read] at this
    | cons d rest' =>
      obtain ⟨i, u⟩ := c
      obtain ⟨j, v⟩ := d
      obtain ⟨hi, hw⟩ := List.pairwise_cons.1 h
      obtain ⟨hj, hw'⟩ := List.pairwise_cons.1 h'
      have hij : i = j := by
        rcases Nat.lt_trichotomy i j with hlt | heq | hgt
        · have := hr i
          simp only [Memory.read, if_true, if_neg (Nat.ne_of_lt hlt)] at this
          rw [Memory.read_eq_none_of_lt fun c hc => lt_trans hlt (hj c hc)] at this
          exact absurd this (by simp)
        · exact heq
        · have := hr j
          simp only [Memory.read, if_true, if_neg (Nat.ne_of_lt hgt)] at this
          rw [Memory.read_eq_none_of_lt fun c hc => lt_trans hgt (hi c hc)] at this
          exact absurd this (by simp)
      subst hij
      have huv : u = v := by simpa [Memory.read] using hr i
      subst huv
      congr 1
      refine ih hw hw' fun k => ?_
      have hk := hr k
      simp only [Memory.read] at hk
      split at hk
      · subst k
        rw [Memory.read_eq_none_of_lt hi, Memory.read_eq_none_of_lt hj]
      · exact hk

/-- Every read of a canonical memory inside a bound: an index at or beyond the bound is not listed. -/
theorem Memory.read_eq_none_of_below {m : Memory w} {bound i : Nat} (h : m.below bound) (hi : bound ≤ i) :
    m.read i = none := by
  induction m with
  | nil => rfl
  | cons d rest ih =>
    have hd := h d (List.mem_cons_self ..)
    simp only [Memory.read]
    rw [if_neg (by omega)]
    exact ih fun c hc => h c (List.mem_cons_of_mem _ hc)

/-! ### Loops -/

@[simp] theorem loop_zero {σ : Type} (body : Nat → σ → σ) (s : σ) : loop 0 body s = s := rfl

theorem loop_succ {σ : Type} (n : Nat) (body : Nat → σ → σ) (s : σ) : loop (n + 1) body s = body n (loop n body s) := rfl

/-- What every pass of a loop keeps, the loop keeps. -/
theorem loop_induct {σ : Type} (P : σ → Prop) (n : Nat) (body : Nat → σ → σ) (s : σ) (h0 : P s)
    (hstep : ∀ k < n, ∀ t, P t → P (body k t)) : P (loop n body s) := by
  induction n with
  | zero => exact h0
  | succ n ih => exact hstep n (Nat.lt_succ_self n) _ (ih fun k hk => hstep k (Nat.lt_succ_of_lt hk))

/-- What holds before a pass of a loop as a function of the pass number holds after the last one. -/
theorem loop_invariant {σ : Type} (P : Nat → σ → Prop) (n : Nat) (body : Nat → σ → σ) (s : σ) (h0 : P 0 s)
    (hstep : ∀ k < n, ∀ t, P k t → P (k + 1) (body k t)) : P n (loop n body s) := by
  induction n with
  | zero => exact h0
  | succ n ih => exact hstep n (Nat.lt_succ_self n) _ (ih fun k hk => hstep k (Nat.lt_succ_of_lt hk))

/-- Bodies that agree on the passes a loop makes give the same loop. -/
theorem loop_congr {σ : Type} {n : Nat} {f g : Nat → σ → σ} {s : σ} (h : ∀ k < n, ∀ t, f k t = g k t) :
    loop n f s = loop n g s := by
  induction n with
  | zero => rfl
  | succ n ih => rw [loop_succ, loop_succ, h n (Nat.lt_succ_self n), ih fun k hk => h k (Nat.lt_succ_of_lt hk)]

/-- The `k`-th write of a loop that writes elements 0, 1, …: everything it does to a read. -/
theorem read_loop_write (n : Nat) (f : Nat → BitVec w) (m : Memory w) (j : Nat) :
    (loop n (fun i a => Memory.write a i (f i)) m).read j = if j < n then some (f j) else m.read j := by
  induction n with
  | zero => simp
  | succ n ih =>
    rw [loop_succ, Memory.read_write, ih]
    split
    · subst j; simp
    · split
      · rw [if_pos (by omega)]
      · rw [if_neg (by omega)]

theorem wf_loop_write (n : Nat) (f : Nat → BitVec w) {m : Memory w} (h : m.wf) :
    (loop n (fun i a => Memory.write a i (f i)) m).wf :=
  loop_induct _ n _ m h fun _ _ _ ht => Memory.wf_write ht _ _

end Sys2Proof.Machine
end

