-- ==== Sys2Proof/Laws/State.lean ====
section
/-! SUPPORT. What each named update leaves in each field of State, and how the operand accessors see it: all true by rfl. -/

namespace Sys2Proof.Machine

/-! ### The constants of R9, as numerals -/

@[simp] theorem config_tile : Config.tile = 8 := rfl
@[simp] theorem config_rowb : Config.rowb = 2 := rfl
@[simp] theorem config_tileb : Config.tileb = 16 := rfl
@[simp] theorem config_nreg : Config.nreg = 9 := rfl
theorem platform_tmax (p : Platform) : p.tmax = 16 * p.pmax := rfl

variable (s : State)

/-! ### finish -/

@[simp] theorem State.finish_status (e : ErrCode) (u : Bool) : (s.finish e u).status = statusWord e u := rfl
@[simp] theorem State.finish_w (e : ErrCode) (u : Bool) : (s.finish e u).w = s.w := rfl
@[simp] theorem State.finish_h (e : ErrCode) (u : Bool) : (s.finish e u).h = s.h := rfl
@[simp] theorem State.finish_n (e : ErrCode) (u : Bool) : (s.finish e u).n = s.n := rfl
@[simp] theorem State.finish_tcx (e : ErrCode) (u : Bool) : (s.finish e u).tcx = s.tcx := rfl
@[simp] theorem State.finish_tcy (e : ErrCode) (u : Bool) : (s.finish e u).tcy = s.tcy := rfl
@[simp] theorem State.finish_tcnt (e : ErrCode) (u : Bool) : (s.finish e u).tcnt = s.tcnt := rfl
@[simp] theorem State.finish_tsize (e : ErrCode) (u : Bool) : (s.finish e u).tsize = s.tsize := rfl
@[simp] theorem State.finish_pin (e : ErrCode) (u : Bool) : (s.finish e u).pin = s.pin := rfl
@[simp] theorem State.finish_pout (e : ErrCode) (u : Bool) : (s.finish e u).pout = s.pout := rfl
@[simp] theorem State.finish_tout (e : ErrCode) (u : Bool) : (s.finish e u).tout = s.tout := rfl
@[simp] theorem State.finish_script (e : ErrCode) (u : Bool) : (s.finish e u).script = s.script := rfl
@[simp] theorem State.finish_replies (e : ErrCode) (u : Bool) : (s.finish e u).replies = s.replies := rfl
@[simp] theorem State.finish_serial (e : ErrCode) (u : Bool) : (s.finish e u).serial = s.serial := rfl
@[simp] theorem State.finish_width (e : ErrCode) (u : Bool) : (s.finish e u).width = s.width := rfl
@[simp] theorem State.finish_height (e : ErrCode) (u : Bool) : (s.finish e u).height = s.height := rfl
@[simp] theorem State.finish_pixels (e : ErrCode) (u : Bool) : (s.finish e u).pixels = s.pixels := rfl
@[simp] theorem State.finish_pinValue (e : ErrCode) (u : Bool) (i : Nat) : (s.finish e u).pinValue i = s.pinValue i := rfl

/-! ### raise -/

@[simp] theorem State.raise_status (e : ErrCode) : (s.raise e).status = statusWord e false := rfl
@[simp] theorem State.raise_w (e : ErrCode) : (s.raise e).w = s.w := rfl
@[simp] theorem State.raise_h (e : ErrCode) : (s.raise e).h = s.h := rfl
@[simp] theorem State.raise_n (e : ErrCode) : (s.raise e).n = s.n := rfl
@[simp] theorem State.raise_tcx (e : ErrCode) : (s.raise e).tcx = s.tcx := rfl
@[simp] theorem State.raise_tcy (e : ErrCode) : (s.raise e).tcy = s.tcy := rfl
@[simp] theorem State.raise_tcnt (e : ErrCode) : (s.raise e).tcnt = s.tcnt := rfl
@[simp] theorem State.raise_tsize (e : ErrCode) : (s.raise e).tsize = s.tsize := rfl
@[simp] theorem State.raise_pin (e : ErrCode) : (s.raise e).pin = s.pin := rfl
@[simp] theorem State.raise_pout (e : ErrCode) : (s.raise e).pout = s.pout := rfl
@[simp] theorem State.raise_tout (e : ErrCode) : (s.raise e).tout = s.tout := rfl
@[simp] theorem State.raise_script (e : ErrCode) : (s.raise e).script = s.script := rfl
@[simp] theorem State.raise_replies (e : ErrCode) : (s.raise e).replies = s.replies := rfl
@[simp] theorem State.raise_serial (e : ErrCode) : (s.raise e).serial = s.serial := rfl
@[simp] theorem State.raise_width (e : ErrCode) : (s.raise e).width = s.width := rfl
@[simp] theorem State.raise_height (e : ErrCode) : (s.raise e).height = s.height := rfl
@[simp] theorem State.raise_pixels (e : ErrCode) : (s.raise e).pixels = s.pixels := rfl
@[simp] theorem State.raise_pinValue (e : ErrCode) (i : Nat) : (s.raise e).pinValue i = s.pinValue i := rfl

/-! ### setGrid -/

@[simp] theorem State.setGrid_status (x y : Nat) : (s.setGrid x y).status = s.status := rfl
@[simp] theorem State.setGrid_w (x y : Nat) : (s.setGrid x y).w = s.w := rfl
@[simp] theorem State.setGrid_h (x y : Nat) : (s.setGrid x y).h = s.h := rfl
@[simp] theorem State.setGrid_n (x y : Nat) : (s.setGrid x y).n = s.n := rfl
@[simp] theorem State.setGrid_tcx (x y : Nat) : (s.setGrid x y).tcx = BitVec.ofNat 32 x := rfl
@[simp] theorem State.setGrid_tcy (x y : Nat) : (s.setGrid x y).tcy = BitVec.ofNat 32 y := rfl
@[simp] theorem State.setGrid_tcnt (x y : Nat) : (s.setGrid x y).tcnt = BitVec.ofNat 32 (x * y) := rfl
@[simp] theorem State.setGrid_tsize (x y : Nat) : (s.setGrid x y).tsize = BitVec.ofNat 32 (x * y * 16) := rfl
@[simp] theorem State.setGrid_pin (x y : Nat) : (s.setGrid x y).pin = s.pin := rfl
@[simp] theorem State.setGrid_pout (x y : Nat) : (s.setGrid x y).pout = s.pout := rfl
@[simp] theorem State.setGrid_tout (x y : Nat) : (s.setGrid x y).tout = s.tout := rfl
@[simp] theorem State.setGrid_script (x y : Nat) : (s.setGrid x y).script = s.script := rfl
@[simp] theorem State.setGrid_replies (x y : Nat) : (s.setGrid x y).replies = s.replies := rfl
@[simp] theorem State.setGrid_serial (x y : Nat) : (s.setGrid x y).serial = s.serial := rfl
@[simp] theorem State.setGrid_width (x y : Nat) : (s.setGrid x y).width = s.width := rfl
@[simp] theorem State.setGrid_height (x y : Nat) : (s.setGrid x y).height = s.height := rfl
@[simp] theorem State.setGrid_pixels (x y : Nat) : (s.setGrid x y).pixels = s.pixels := rfl
@[simp] theorem State.setGrid_pinValue (x y : Nat) (i : Nat) : (s.setGrid x y).pinValue i = s.pinValue i := rfl

/-! ### advance -/

@[simp] theorem State.advance_status (rest : List Event) : (s.advance rest).status = s.status := rfl
@[simp] theorem State.advance_w (rest : List Event) : (s.advance rest).w = s.w := rfl
@[simp] theorem State.advance_h (rest : List Event) : (s.advance rest).h = s.h := rfl
@[simp] theorem State.advance_n (rest : List Event) : (s.advance rest).n = s.n := rfl
@[simp] theorem State.advance_tcx (rest : List Event) : (s.advance rest).tcx = s.tcx := rfl
@[simp] theorem State.advance_tcy (rest : List Event) : (s.advance rest).tcy = s.tcy := rfl
@[simp] theorem State.advance_tcnt (rest : List Event) : (s.advance rest).tcnt = s.tcnt := rfl
@[simp] theorem State.advance_tsize (rest : List Event) : (s.advance rest).tsize = s.tsize := rfl
@[simp] theorem State.advance_pin (rest : List Event) : (s.advance rest).pin = s.pin := rfl
@[simp] theorem State.advance_pout (rest : List Event) : (s.advance rest).pout = s.pout := rfl
@[simp] theorem State.advance_tout (rest : List Event) : (s.advance rest).tout = s.tout := rfl
@[simp] theorem State.advance_script (rest : List Event) : (s.advance rest).script = rest := rfl
@[simp] theorem State.advance_replies (rest : List Event) : (s.advance rest).replies = s.replies := rfl
@[simp] theorem State.advance_serial (rest : List Event) : (s.advance rest).serial = s.serial + 1 := rfl
@[simp] theorem State.advance_width (rest : List Event) : (s.advance rest).width = s.width := rfl
@[simp] theorem State.advance_height (rest : List Event) : (s.advance rest).height = s.height := rfl
@[simp] theorem State.advance_pixels (rest : List Event) : (s.advance rest).pixels = s.pixels := rfl

/-! ### reply -/

@[simp] theorem State.reply_status (r : Reply) : (s.reply r).status = s.status := rfl
@[simp] theorem State.reply_w (r : Reply) : (s.reply r).w = s.w := rfl
@[simp] theorem State.reply_h (r : Reply) : (s.reply r).h = s.h := rfl
@[simp] theorem State.reply_n (r : Reply) : (s.reply r).n = s.n := rfl
@[simp] theorem State.reply_tcx (r : Reply) : (s.reply r).tcx = s.tcx := rfl
@[simp] theorem State.reply_tcy (r : Reply) : (s.reply r).tcy = s.tcy := rfl
@[simp] theorem State.reply_tcnt (r : Reply) : (s.reply r).tcnt = s.tcnt := rfl
@[simp] theorem State.reply_tsize (r : Reply) : (s.reply r).tsize = s.tsize := rfl
@[simp] theorem State.reply_pin (r : Reply) : (s.reply r).pin = s.pin := rfl
@[simp] theorem State.reply_pout (r : Reply) : (s.reply r).pout = s.pout := rfl
@[simp] theorem State.reply_tout (r : Reply) : (s.reply r).tout = s.tout := rfl
@[simp] theorem State.reply_script (r : Reply) : (s.reply r).script = s.script := rfl
@[simp] theorem State.reply_replies (r : Reply) : (s.reply r).replies = s.replies ++ [r] := rfl
@[simp] theorem State.reply_serial (r : Reply) : (s.reply r).serial = s.serial := rfl
@[simp] theorem State.reply_width (r : Reply) : (s.reply r).width = s.width := rfl
@[simp] theorem State.reply_height (r : Reply) : (s.reply r).height = s.height := rfl
@[simp] theorem State.reply_pixels (r : Reply) : (s.reply r).pixels = s.pixels := rfl
@[simp] theorem State.reply_pinValue (r : Reply) (i : Nat) : (s.reply r).pinValue i = s.pinValue i := rfl

/-! ### applyReset -/

@[simp] theorem State.applyReset_status : (s.applyReset).status = 0#32 := rfl
@[simp] theorem State.applyReset_w : (s.applyReset).w = 0#32 := rfl
@[simp] theorem State.applyReset_h : (s.applyReset).h = 0#32 := rfl
@[simp] theorem State.applyReset_n : (s.applyReset).n = 0#32 := rfl
@[simp] theorem State.applyReset_tcx : (s.applyReset).tcx = 0#32 := rfl
@[simp] theorem State.applyReset_tcy : (s.applyReset).tcy = 0#32 := rfl
@[simp] theorem State.applyReset_tcnt : (s.applyReset).tcnt = 0#32 := rfl
@[simp] theorem State.applyReset_tsize : (s.applyReset).tsize = 0#32 := rfl
@[simp] theorem State.applyReset_pin : (s.applyReset).pin = [] := rfl
@[simp] theorem State.applyReset_pout : (s.applyReset).pout = [] := rfl
@[simp] theorem State.applyReset_tout : (s.applyReset).tout = [] := rfl
@[simp] theorem State.applyReset_script : (s.applyReset).script = s.script := rfl
@[simp] theorem State.applyReset_replies : (s.applyReset).replies = s.replies := rfl
@[simp] theorem State.applyReset_serial : (s.applyReset).serial = s.serial := rfl

/-! ### withFetchWord -/

@[simp] theorem State.withFetchWord_status (nbits v : Nat) : (s.withFetchWord nbits v).status = s.status := rfl
@[simp] theorem State.withFetchWord_w (nbits v : Nat) : (s.withFetchWord nbits v).w = s.w := rfl
@[simp] theorem State.withFetchWord_h (nbits v : Nat) : (s.withFetchWord nbits v).h = s.h := rfl
@[simp] theorem State.withFetchWord_n (nbits v : Nat) : (s.withFetchWord nbits v).n = s.n := rfl
@[simp] theorem State.withFetchWord_tcx (nbits v : Nat) : (s.withFetchWord nbits v).tcx = s.tcx := rfl
@[simp] theorem State.withFetchWord_tcy (nbits v : Nat) : (s.withFetchWord nbits v).tcy = s.tcy := rfl
@[simp] theorem State.withFetchWord_tcnt (nbits v : Nat) : (s.withFetchWord nbits v).tcnt = s.tcnt := rfl
@[simp] theorem State.withFetchWord_tsize (nbits v : Nat) : (s.withFetchWord nbits v).tsize = s.tsize := rfl
@[simp] theorem State.withFetchWord_pin (nbits v : Nat) : (s.withFetchWord nbits v).pin = s.pin := rfl
@[simp] theorem State.withFetchWord_pout (nbits v : Nat) : (s.withFetchWord nbits v).pout = s.pout := rfl
@[simp] theorem State.withFetchWord_tout (nbits v : Nat) : (s.withFetchWord nbits v).tout = s.tout := rfl
@[simp] theorem State.withFetchWord_script (nbits v : Nat) : (s.withFetchWord nbits v).script = .host (.regWrite 0 (tableWord nbits v)) :: s.script := rfl
@[simp] theorem State.withFetchWord_replies (nbits v : Nat) : (s.withFetchWord nbits v).replies = s.replies := rfl
@[simp] theorem State.withFetchWord_serial (nbits v : Nat) : (s.withFetchWord nbits v).serial = s.serial := rfl
@[simp] theorem State.withFetchWord_width (nbits v : Nat) : (s.withFetchWord nbits v).width = s.width := rfl
@[simp] theorem State.withFetchWord_height (nbits v : Nat) : (s.withFetchWord nbits v).height = s.height := rfl
@[simp] theorem State.withFetchWord_pixels (nbits v : Nat) : (s.withFetchWord nbits v).pixels = s.pixels := rfl

/-! ### withScript -/

@[simp] theorem State.withScript_status (ls : List ScriptLine) : (s.withScript ls).status = s.status := rfl
@[simp] theorem State.withScript_w (ls : List ScriptLine) : (s.withScript ls).w = s.w := rfl
@[simp] theorem State.withScript_h (ls : List ScriptLine) : (s.withScript ls).h = s.h := rfl
@[simp] theorem State.withScript_n (ls : List ScriptLine) : (s.withScript ls).n = s.n := rfl
@[simp] theorem State.withScript_tcx (ls : List ScriptLine) : (s.withScript ls).tcx = s.tcx := rfl
@[simp] theorem State.withScript_tcy (ls : List ScriptLine) : (s.withScript ls).tcy = s.tcy := rfl
@[simp] theorem State.withScript_tcnt (ls : List ScriptLine) : (s.withScript ls).tcnt = s.tcnt := rfl
@[simp] theorem State.withScript_tsize (ls : List ScriptLine) : (s.withScript ls).tsize = s.tsize := rfl
@[simp] theorem State.withScript_pin (ls : List ScriptLine) : (s.withScript ls).pin = s.pin := rfl
@[simp] theorem State.withScript_pout (ls : List ScriptLine) : (s.withScript ls).pout = s.pout := rfl
@[simp] theorem State.withScript_tout (ls : List ScriptLine) : (s.withScript ls).tout = s.tout := rfl
@[simp] theorem State.withScript_script (ls : List ScriptLine) : (s.withScript ls).script = expandScript ls ++ s.script := rfl
@[simp] theorem State.withScript_replies (ls : List ScriptLine) : (s.withScript ls).replies = s.replies := rfl
@[simp] theorem State.withScript_serial (ls : List ScriptLine) : (s.withScript ls).serial = s.serial := rfl
@[simp] theorem State.withScript_width (ls : List ScriptLine) : (s.withScript ls).width = s.width := rfl
@[simp] theorem State.withScript_height (ls : List ScriptLine) : (s.withScript ls).height = s.height := rfl
@[simp] theorem State.withScript_pixels (ls : List ScriptLine) : (s.withScript ls).pixels = s.pixels := rfl

end Sys2Proof.Machine
end

