-- ==== Sys2Proof/Laws/Commands.lean ====
section
/-! SUPPORT. What validation, the status word, and the commands' parts can do, each said once. -/

namespace Sys2Proof.Machine

/-! ### The platform -/

theorem platform_pmax_pos : 1 ≤ Config.platform.pmax := Nat.le_add_left ..

theorem platform_pmax_le : Config.platform.pmax ≤ 2 ^ 26 := Config.pmaxLessOne.isLt

/-! ### STATUS -/

@[simp] theorem statusWord_ok_false : statusWord .ok false = 0#32 := by decide
@[simp] theorem statusWord_ok_true : statusWord .ok true = 0x10#32 := by decide
@[simp] theorem statusWord_invalidDimensions : statusWord .invalidDimensions false = 1#32 := by decide
@[simp] theorem statusWord_capacity : statusWord .capacity false = 2#32 := by decide
@[simp] theorem statusWord_illegalCmd : statusWord .illegalCmd false = 3#32 := by decide

/-- The fields of the status word a command writes. -/
theorem statusWord_fields (e : ErrCode) (u : Bool) :
    (statusWord e u).extractLsb' 0 2 = e.code ∧ (statusWord e u).getLsbD 4 = u := by
  cases e <;> cases u <;> decide

@[simp] theorem State.finish_err (s : State) (e : ErrCode) (u : Bool) : (s.finish e u).err = e.code := (statusWord_fields e u).1

@[simp] theorem State.finish_unq (s : State) (e : ErrCode) (u : Bool) : (s.finish e u).unq = u := (statusWord_fields e u).2

@[simp] theorem State.raise_err (s : State) (e : ErrCode) : (s.raise e).err = e.code := (statusWord_fields e false).1

theorem legalStatus_error (e : ErrCode) : LegalStatus (statusWord e false) := ⟨e, false, rfl, by simp⟩

theorem legalStatus_ok (u : Bool) : LegalStatus (statusWord .ok u) := ⟨.ok, u, rfl, by simp⟩

/-! ### Validation -/

theorem dimsError_image (s : State) (pmax : Nat) : s.dimsError pmax true = none ↔ s.ImageReady pmax := by
  unfold State.dimsError State.ImageReady State.GridReady
  simp only [true_and]
  split
  · simp only [reduceCtorEq, false_iff]; omega
  · split
    · simp only [reduceCtorEq, false_iff]; omega
    · simp only [true_iff]; omega

theorem dimsError_grid (s : State) (pmax : Nat) : s.dimsError pmax false = none ↔ s.GridReady pmax := by
  unfold State.dimsError State.GridReady
  simp only [Bool.false_eq_true, false_and, or_false]
  split
  · simp only [reduceCtorEq, false_iff]; omega
  · split
    · simp only [reduceCtorEq, false_iff]; omega
    · simp only [true_iff]; omega

/-- The check fails only with one of two codes. -/
theorem dimsError_code {s : State} {pmax : Nat} {u : Bool} {e : ErrCode} (h : s.dimsError pmax u = some e) :
    e = .invalidDimensions ∨ e = .capacity := by
  unfold State.dimsError at h
  split at h
  · exact .inl (Option.some.inj h).symm
  · split at h
    · exact .inr (Option.some.inj h).symm
    · exact absurd h (by simp)

/-- Everything a validated command can do: raise one of two errors, or pass the checks and run its body. -/
theorem validated_cases (s : State) (pmax : Nat) (u : Bool) (body : State → State) :
    (∃ e, s.dimsError pmax u = some e ∧ (e = .invalidDimensions ∨ e = .capacity) ∧
      s.validated pmax u body = s.raise e) ∨
    (s.dimsError pmax u = none ∧ s.validated pmax u body = body s) := by
  unfold State.validated
  cases h : s.dimsError pmax u with
  | none => exact .inr ⟨rfl, rfl⟩
  | some e => exact .inl ⟨e, rfl, dimsError_code h, rfl⟩

theorem validated_image {s : State} {pmax : Nat} (h : s.ImageReady pmax) (body : State → State) :
    s.validated pmax true body = body s := by
  simp [State.validated, (dimsError_image s pmax).2 h]

theorem validated_grid {s : State} {pmax : Nat} (h : s.GridReady pmax) (body : State → State) :
    s.validated pmax false body = body s := by
  simp [State.validated, (dimsError_grid s pmax).2 h]

/-- After the dimension checks, width and height are the registers' values. -/
theorem GridReady.dims {s : State} {pmax : Nat} (h : s.GridReady pmax) :
    1 ≤ s.width ∧ 1 ≤ s.height ∧ (s.width : Int) = i32 s.w ∧ (s.height : Int) = i32 s.h ∧ s.pixels ≤ pmax := by
  obtain ⟨hw, hh, hp⟩ := h
  have ew : (s.width : Int) = i32 s.w := Int.toNat_of_nonneg (by omega)
  have eh : (s.height : Int) = i32 s.h := Int.toNat_of_nonneg (by omega)
  refine ⟨by omega, by omega, ew, eh, ?_⟩
  unfold State.pixels
  rw [← ew, ← eh] at hp
  exact_mod_cast hp

/-! ### The commands as functions -/

theorem exec_quant (s : State) : exec .quant s = .next (quantAt Config.platform s) := rfl
theorem exec_grid (s : State) : exec .grid s = .next (gridAt Config.platform s) := rfl
theorem exec_enc (s : State) : exec .enc s = .next (encAt Config.platform s) := rfl

/-- The command's next state, as a function. -/
def commandAt (p : Platform) (i : Instr) (s : State) : State :=
  match i with
  | .quant => quantAt p s
  | .grid => gridAt p s
  | .enc => encAt p s

theorem exec_eq (i : Instr) (s : State) : exec i s = .next (commandAt Config.platform i s) := by cases i <;> rfl

theorem execAt_eq (p : Platform) (i : Instr) (s : State) : execAt p i s = .next (commandAt p i s) := by cases i <;> rfl

/-- On the open platform `execAt` is `exec`. -/
theorem execAt_platform (i : Instr) (s : State) : execAt Config.platform i s = exec i s := by cases i <;> rfl

theorem quantAt_ready {p : Platform} {s : State} (h : s.ImageReady p.pmax) : quantAt p s = s.quantBody := validated_image h _

theorem gridAt_ready {p : Platform} {s : State} (h : s.GridReady p.pmax) : gridAt p s = s.gridBody := validated_grid h _

theorem encAt_ready {p : Platform} {s : State} (h : s.ImageReady p.pmax) : encAt p s = s.encBody := validated_image h _

/-! ### QUANT's loop -/

theorem read_quantLoop (pin : Nat → Word) (count : Nat) (m : Memory 32) (j : Nat) :
    (quantLoop pin count m).read j = if j < count then some (qpix (pin j)) else m.read j :=
  read_loop_write count (fun i => qpix (pin i)) m j

theorem wf_quantLoop (pin : Nat → Word) (count : Nat) {m : Memory 32} (h : m.wf) : (quantLoop pin count m).wf :=
  wf_loop_write count (fun i => qpix (pin i)) h

theorem below_quantLoop (pin : Nat → Word) {count bound : Nat} {m : Memory 32} (h : m.below bound) (hc : count ≤ bound) :
    (quantLoop pin count m).below bound :=
  loop_induct (fun a : Memory 32 => a.below bound) count _ m h fun k hk _ ht => Memory.below_write ht (by omega) _

end Sys2Proof.Machine
end

