-- ==== Sys2Proof/Laws/Encoder.lean ====
section
/-! SUPPORT. The tile encoder: the loop nest of ENC emits the stream in the order of R138, and stays inside TOUT. -/

namespace Sys2Proof.Machine

/-- What `emitRow` does to a read. -/
theorem read_emitRow (b : Byte × Byte) (acc : Nat × Memory 8) (j : Nat) :
    (emitRow b acc).2.read j = if j = acc.1 + 1 then some b.2 else if j = acc.1 then some b.1 else acc.2.read j := by
  simp only [emitRow, Memory.read_write]

/-- The state of an emission: `k` bytes of the stream stand in TOUT, and the rest is as before. -/
structure Emitted (stream : Nat → Byte) (tout : Memory 8) (k : Nat) (acc : Nat × Memory 8) : Prop where
  count : acc.1 = k
  reads : ∀ j, acc.2.read j = if j < k then some (stream j) else tout.read j
  wf : tout.wf → acc.2.wf
  below : ∀ bound, tout.below bound → k ≤ bound → acc.2.below bound

theorem Emitted.zero (stream : Nat → Byte) (tout : Memory 8) : Emitted stream tout 0 (0, tout) :=
  { count := rfl, reads := fun _ => by simp, wf := id, below := fun _ h _ => h }

/-- Emitting the next two bytes of the stream. -/
theorem Emitted.emitRow {stream : Nat → Byte} {tout : Memory 8} {k : Nat} {acc : Nat × Memory 8}
    (h : Emitted stream tout k acc) {b : Byte × Byte} (h0 : b.1 = stream k) (h1 : b.2 = stream (k + 1)) :
    Emitted stream tout (k + 2) (emitRow b acc) where
  count := by simp [Machine.emitRow, h.count, Config.rowb]
  reads j := by
    rw [read_emitRow, h.count, h.reads]
    split
    · subst j; rw [if_pos (by omega), h1]
    · split
      · subst j; rw [if_pos (by omega), h0]
      · by_cases hj : j < k
        · rw [if_pos hj, if_pos (by omega)]
        · rw [if_neg hj, if_neg (by omega)]
  wf ht := Memory.wf_write (Memory.wf_write (h.wf ht) _ _) _ _
  below bound hb hk := by
    have := h.below bound hb (by omega)
    have hc := h.count
    exact Memory.below_write (Memory.below_write this (by omega) _) (by omega) _

/-- The decomposition of R90 at the position of tile (tx, ty), row r, plane p. -/
theorem streamByte_at (pin : Nat → Word) (width height : Nat) {tcx tx ty r : Nat} (hx : tx < tcx) (hr : r < 8) :
    streamByte pin width height tcx (16 * (ty * tcx + tx) + 2 * r) = (packRow pin width height tx ty r).1 ∧
    streamByte pin width height tcx (16 * (ty * tcx + tx) + 2 * r + 1) = (packRow pin width height tx ty r).2 := by
  have ht : (ty * tcx + tx) / tcx = ty := by
    rw [Nat.mul_comm, Nat.mul_add_div (by omega), Nat.div_eq_of_lt hx, Nat.add_zero]
  have hm : (ty * tcx + tx) % tcx = tx := by
    rw [Nat.mul_comm, Nat.mul_add_mod, Nat.mod_eq_of_lt hx]
  constructor
  · have a1 : (16 * (ty * tcx + tx) + 2 * r) / 16 = ty * tcx + tx := by omega
    have a2 : (16 * (ty * tcx + tx) + 2 * r) % 16 / 2 = r := by omega
    have a3 : (16 * (ty * tcx + tx) + 2 * r) % 2 = 0 := by omega
    simp only [streamByte, Config.tileb, Config.rowb, a1, a2, a3, ht, hm, if_true]
  · have a1 : (16 * (ty * tcx + tx) + 2 * r + 1) / 16 = ty * tcx + tx := by omega
    have a2 : (16 * (ty * tcx + tx) + 2 * r + 1) % 16 / 2 = r := by omega
    have a3 : (16 * (ty * tcx + tx) + 2 * r + 1) % 2 = 1 := by omega
    simp only [streamByte, Config.tileb, Config.rowb, a1, a2, a3, ht, hm, one_ne_zero, if_false]

/-- The loop nest of ENC emits the closed form of R138, 16 bytes a tile, and nothing else. -/
theorem encLoop_emitted (pin : Nat → Word) (width height tcx tcy : Nat) (tout : Memory 8) :
    Emitted (streamByte pin width height tcx) tout (16 * (tcy * tcx)) (encLoop pin width height tcx tcy tout) := by
  unfold encLoop
  have outer := loop_invariant
    (fun ty acc => Emitted (streamByte pin width height tcx) tout (16 * (ty * tcx)) acc) tcy
    (fun ty a => loop tcx (fun tx b =>
      loop Config.tile (fun row c => emitRow (packRow pin width height tx ty row) c) b) a) (0, tout)
    (by simpa using Emitted.zero _ _)
  refine outer fun ty _ a ha => ?_
  have middle := loop_invariant
    (fun tx acc => Emitted (streamByte pin width height tcx) tout (16 * (ty * tcx + tx)) acc) tcx
    (fun tx b => loop Config.tile (fun row c => emitRow (packRow pin width height tx ty row) c) b) a
    (by simpa using ha)
  have := middle fun tx hx b hb => ?_
  · have e : 16 * (ty * tcx + tcx) = 16 * ((ty + 1) * tcx) := by ring
    rwa [e] at this
  · have inner := loop_invariant
      (fun row acc => Emitted (streamByte pin width height tcx) tout (16 * (ty * tcx + tx) + 2 * row) acc) Config.tile
      (fun row c => emitRow (packRow pin width height tx ty row) c) b (by simpa using hb)
    have := inner fun row hrow c hc => ?_
    · have e : 16 * (ty * tcx + tx) + 2 * Config.tile = 16 * (ty * tcx + (tx + 1)) := by simp only [Config.tile]; ring
      rwa [e] at this
    · obtain ⟨h0, h1⟩ := streamByte_at pin width height (ty := ty) hx hrow
      exact hc.emitRow h0.symm h1.symm

/-- What the loop nest of ENC does to a read. -/
theorem read_encLoop (pin : Nat → Word) (width height tcx tcy : Nat) (tout : Memory 8) (k : Nat) :
    (encLoop pin width height tcx tcy tout).2.read k =
      if k < 16 * (tcy * tcx) then some (streamByte pin width height tcx k) else tout.read k :=
  (encLoop_emitted pin width height tcx tcy tout).reads k

/-- The grid of a positive size is positive and never has more tiles than the image has pixels (R11). -/
theorem tgrid_bounds {width height : Nat} (hw : 1 ≤ width) (hh : 1 ≤ height) :
    1 ≤ (tgrid width height).1 ∧ (tgrid width height).1 ≤ width ∧ 1 ≤ (tgrid width height).2 ∧
      (tgrid width height).2 ≤ height := by
  simp only [tgrid, Config.tile]
  omega

end Sys2Proof.Machine
end

