-- ==== Sys2Proof/Laws/PerInstr.lean ====
section
/-! SUPPORT. Statements for all instructions, one lemma per constructor of Instr. -/

namespace Sys2Proof.Laws

/-- The word of every command is in format CMD: the field ZERO is 0 and the command has no operand to lose (R80, R83). -/
def CommandFormat.Statement (i : Instr) : Prop := zeroField (encode i) = 0#24 ∧ i.wf = true

theorem CommandFormat.quant : CommandFormat.Statement .quant := by unfold CommandFormat.Statement; decide
theorem CommandFormat.grid : CommandFormat.Statement .grid := by unfold CommandFormat.Statement; decide
theorem CommandFormat.enc : CommandFormat.Statement .enc := by unfold CommandFormat.Statement; decide

end Sys2Proof.Laws
end

