-- ==== Sys2Proof/Laws/Pixels.lean ====
section
/-! SUPPORT. The pixel word, the exact match, one column of a packed row, and the result registers: one law each. -/

namespace Sys2Proof.Machine

/-! ### The pixel word (R86) -/

@[simp] theorem pixColor_mkPixel (c : Color) (a : Byte) : pixColor (mkPixel c a) = c := by
  obtain ⟨r, g, b⟩ := c
  simp only [pixColor, pixR, pixG, pixB, mkPixel, Color.mk.injEq]
  refine ⟨?_, ?_, ?_⟩ <;> apply BitVec.eq_of_getLsbD_eq <;> intro i hi <;>
    simp only [BitVec.getLsbD_extractLsb', BitVec.getLsbD_append] <;> interval_cases i <;> simp

@[simp] theorem pixA_mkPixel (c : Color) (a : Byte) : pixA (mkPixel c a) = a := by
  apply BitVec.eq_of_getLsbD_eq
  intro i hi
  simp only [pixA, mkPixel, BitVec.getLsbD_extractLsb', BitVec.getLsbD_append]
  interval_cases i <;> simp

/-- A pixel word is its colour and its alpha: no bit is lost and none is reserved. -/
theorem mkPixel_fields (p : Word) : mkPixel (pixColor p) (pixA p) = p := by
  apply BitVec.eq_of_getLsbD_eq
  intro i hi
  simp only [mkPixel, pixColor, pixR, pixG, pixB, pixA, BitVec.getLsbD_extractLsb', BitVec.getLsbD_append]
  interval_cases i <;> simp

/-! ### The exact match (R130) -/

/-- The match fails exactly on the colours that are no palette entry. -/
theorem cidxMatch_eq_none (c : Color) : cidxMatch c = none ↔ ∀ k, c ≠ pal k := by
  simp only [cidxMatch, cidxScan]
  constructor
  · intro h k
    split at h
    · cases h
    · split at h
      · cases h
      · split at h
        · cases h
        · split at h
          · cases h
          · fin_cases k <;> assumption
  · intro h
    simp [h]

/-! ### One column of a packed row (R136) -/

/-- A column sets its own bit of each plane from its own bit of the index, and no other. -/
theorem packCol_bits (i : Fin 4) {col j : Nat} (hc : col < 8) (hj : j < 8) (acc : Byte × Byte) :
    (packCol i col acc).1.getLsbD (7 - j) = (acc.1.getLsbD (7 - j) || (decide (j = col) && i.val.testBit 0)) ∧
    (packCol i col acc).2.getLsbD (7 - j) = (acc.2.getLsbD (7 - j) || (decide (j = col) && i.val.testBit 1)) := by
  have hs : (1#8 <<< (7 - col)).getLsbD (7 - j) = decide (j = col) := by
    interval_cases col <;> interval_cases j <;> rfl
  have b0 : (i.val &&& 1 ≠ 0) ↔ i.val.testBit 0 = true := by fin_cases i <;> decide
  have b1 : (i.val &&& 2 ≠ 0) ↔ i.val.testBit 1 = true := by fin_cases i <;> decide
  unfold packCol
  rw [if_congr b0 rfl rfl, if_congr b1 rfl rfl]
  constructor
  · cases i.val.testBit 0
    · simp only [Bool.false_eq_true, if_false, Bool.and_false, Bool.or_false]
    · simp only [if_true, BitVec.getLsbD_or, hs, Bool.and_true]
  · cases i.val.testBit 1
    · simp only [Bool.false_eq_true, if_false, Bool.and_false, Bool.or_false]
    · simp only [if_true, BitVec.getLsbD_or, hs, Bool.and_true]

/-! ### The result registers (R24, R139) -/

/-- On dimensions that pass the checks, no result register wraps, and the counts are positive and at most PMAX. -/
theorem GridReady.registers {s : State} (h : s.GridReady Config.platform.pmax) {x y : Nat}
    (hx : x = (tgrid s.width s.height).1) (hy : y = (tgrid s.width s.height).2) :
    ((BitVec.ofNat 32 x).toNat = x ∧ (BitVec.ofNat 32 y).toNat = y ∧ (BitVec.ofNat 32 (x * y)).toNat = x * y ∧
      (BitVec.ofNat 32 (x * y * 16)).toNat = x * y * 16) ∧
    x ≤ Config.platform.pmax ∧ y ≤ Config.platform.pmax ∧ x * y ≤ Config.platform.pmax ∧ 1 ≤ x ∧ 1 ≤ y := by
  obtain ⟨h1, h2, -, -, hp⟩ := GridReady.dims h
  obtain ⟨bx1, bx, by1, bY⟩ := tgrid_bounds h1 h2
  rw [← hx] at bx1 bx
  rw [← hy] at by1 bY
  have hP := platform_pmax_le
  have hxy : x * y ≤ s.pixels := Nat.mul_le_mul bx bY
  have ax : x ≤ x * y := Nat.le_mul_of_pos_right _ by1
  have ay : y ≤ x * y := Nat.le_mul_of_pos_left _ bx1
  simp only [BitVec.toNat_ofNat]
  generalize x * y = z at *
  omega

end Sys2Proof.Machine
end

