-- ==== Sys2Proof/Laws/Step.lean ====
section
/-! SUPPORT. What one event and one step can do: inversion lemmas. -/

namespace Sys2Proof.Machine

/-- A step with an event to perform. -/
theorem step_cons {s : State} {e : Event} {rest : List Event} (h : s.script = e :: rest) :
    step s = performEvent Config.platform exec e (s.advance rest) := by
  simp [step, stepWith, h]

/-- A step with none. -/
theorem step_nil {s : State} (h : s.script = []) : step s = .next s := by
  simp [step, stepWith, h]

/-- Everything a write of CMD can do: run a decoded command, or report a reserved word. -/
theorem issueCommand_cases (run : Instr → State → Result) (v : Word) (s : State) :
    (∃ i, decode v = .ok i ∧ issueCommand run v s = run i s) ∨
    (∃ e, decode v = .error e ∧ issueCommand run v s = .next (s.raise .illegalCmd)) := by
  unfold issueCommand
  cases h : decode v with
  | ok i => exact .inl ⟨i, rfl, rfl⟩
  | error e => exact .inr ⟨e, rfl, rfl⟩

/-- Everything a register write that answers a next state can do. -/
theorem writeRegister_next {run : Instr → State → Result} {n : Nat} {v : Word} {s t : State}
    (h : writeRegister run n v s = .next t) :
    (n = 0 ∧ issueCommand run v s = .next t) ∨ (n = 2 ∧ t = { s with w := v }) ∨ (n = 3 ∧ t = { s with h := v }) ∨
      (n = 4 ∧ t = { s with n := v }) := by
  unfold writeRegister at h
  split at h
  all_goals first
    | exact .inl ⟨rfl, h⟩
    | cases h
  · exact .inr (.inl ⟨rfl, rfl⟩)
  · exact .inr (.inr (.inl ⟨rfl, rfl⟩))
  · exact .inr (.inr (.inr ⟨rfl, rfl⟩))

/-- A register read that answers a next state only adds a reply. -/
theorem readRegister_next {n : Nat} {s t : State} (h : readRegister n s = .next t) :
    ∃ v, s.register n = some v ∧ t = s.reply (.word v) := by
  unfold readRegister at h
  split at h
  next v hv => exact ⟨v, hv, by cases h; rfl⟩
  · split at h <;> cases h

/-- A PIN write that answers a next state is in range and writes one element. -/
theorem writePin_next {p : Platform} {i : Nat} {v : Word} {s t : State} (h : writePin p i v s = .next t) :
    i < p.pmax ∧ t = { s with pin := s.pin.write i v } := by
  unfold writePin at h
  split at h
  next hi => exact ⟨hi, by cases h; rfl⟩
  · cases h

/-- Everything a transaction that answers a next state can do. -/
theorem performTransaction_next {p : Platform} {run : Instr → State → Result} {t : Transaction} {s s' : State}
    (h : performTransaction p run t s = .next s') :
    (∃ v, t = .regWrite 0 v ∧ issueCommand run v s = .next s') ∨
    (∃ v, t = .regWrite 2 v ∧ s' = { s with w := v }) ∨
    (∃ v, t = .regWrite 3 v ∧ s' = { s with h := v }) ∨
    (∃ v, t = .regWrite 4 v ∧ s' = { s with n := v }) ∨
    (∃ i v, t = .pinWrite i v ∧ i < p.pmax ∧ s' = { s with pin := s.pin.write i v }) ∨
    (∃ r, s' = s.reply r) := by
  unfold performTransaction at h
  split at h
  next n v =>
    rcases writeRegister_next h with ⟨rfl, hs⟩ | ⟨rfl, hs⟩ | ⟨rfl, hs⟩ | ⟨rfl, hs⟩
    · exact .inl ⟨v, rfl, hs⟩
    · exact .inr (.inl ⟨v, rfl, hs⟩)
    · exact .inr (.inr (.inl ⟨v, rfl, hs⟩))
    · exact .inr (.inr (.inr (.inl ⟨v, rfl, hs⟩)))
  · obtain ⟨v, -, hs⟩ := readRegister_next h
    exact .inr (.inr (.inr (.inr (.inr ⟨_, hs⟩))))
  next i v =>
    obtain ⟨hi, hs⟩ := writePin_next h
    exact .inr (.inr (.inr (.inr (.inl ⟨i, v, rfl, hi, hs⟩))))
  all_goals split at h <;> cases h
  all_goals exact .inr (.inr (.inr (.inr (.inr ⟨_, rfl⟩))))

/-- Everything a bus access to a window of 32-bit elements can name: the read or the write of a whole element (R53, R59). -/
theorem wordAccess_ok {a : BusAccess} {off : Nat} {read : Nat → Transaction} {write : Nat → Word → Transaction} {t : Transaction}
    (h : wordAccess a off read write = .ok t) :
    a.size = 4 ∧ a.addr % 4 = 0 ∧ off = 4 * (off / 4) ∧
      (a.wdata = none ∧ t = read (off / 4) ∨ ∃ v, a.wdata = some v ∧ t = write (off / 4) v) := by
  unfold wordAccess at h
  split at h; · cases h
  split at h; · cases h
  refine ⟨by omega, by omega, by omega, ?_⟩
  split at h <;> cases h
  next hw => exact .inl ⟨hw, rfl⟩
  next v hw => exact .inr ⟨v, hw, rfl⟩

/-- Everything a bus access to the window of TOUT can name: the read or the write of one byte (R53, R59). -/
theorem byteAccess_ok {a : BusAccess} {off : Nat} {t : Transaction} (h : byteAccess a off = .ok t) :
    a.size = 1 ∧ (a.wdata = none ∧ t = .toutRead off ∨ ∃ v : Word, a.wdata = some v ∧ t = .toutWrite off (v.extractLsb' 0 8)) := by
  unfold byteAccess at h
  split at h; · cases h
  refine ⟨by omega, ?_⟩
  split at h <;> cases h
  next hw => exact .inl ⟨hw, rfl⟩
  next v hw => exact .inr ⟨v, hw, rfl⟩

/-- Everything an event that answers a next state can do: a transaction, by (space, index) or through the bus; the host's PIN
write of the value last read; reset. -/
theorem performEvent_next {p : Platform} {run : Instr → State → Result} {e : Event} {s s' : State}
    (h : performEvent p run e s = .next s') :
    (∃ t, Event.Is p e t ∧ performTransaction p run t s = .next s') ∨
    (∃ i v, e = .pinWriteLast i ∧ i < p.pmax ∧ s' = { s with pin := s.pin.write i v }) ∨
    (e = .reset ∧ s' = s.applyReset) := by
  unfold performEvent at h
  split at h
  next t => exact .inl ⟨t, .inl rfl, h⟩
  next a =>
    split at h
    next t ht => exact .inl ⟨t, .inr ⟨a, rfl, ht⟩, h⟩
    · cases h
  next i =>
    split at h
    next v _ =>
      obtain ⟨hi, hs⟩ := writePin_next h
      exact .inr (.inl ⟨i, v, rfl, hi, hs⟩)
    · cases h
  · cases h; exact .inr (.inr ⟨rfl, rfl⟩)

end Sys2Proof.Machine
end

