-- ==== Sys2Proof/Tests/Slice0.lean ====
section
/-! SUPPORT. Small tests: the smoke test of WellFormed, the decoder on words written out from R80 and R82, vectors of
95_test_vectors.md, and for every statement with hypotheses a concrete state that meets them. Expected values are the spec's. -/

namespace Sys2Proof.Tests

open Sys2Proof Sys2Proof.Machine

/-! ### Helpers -/

/-- The capacity that 95_test_vectors.md assumes, with windows one after another. -/
def cfg : Platform := { pmax := 256, regBase := 0, pinBase := 36, poutBase := 36 + 1024, toutBase := 36 + 2048 }

/-- A block after reset with dimensions and the first pixels of PIN. -/
def image (w h n : Nat) (pixels : List Word) : State :=
  { State.reset with
    w := BitVec.ofNat 32 w, h := BitVec.ofNat 32 h, n := BitVec.ofNat 32 n
    pin := (List.range pixels.length).zip pixels }

/-- Look at the next state, if there is one. -/
def look {α : Type} (f : State → α) (r : Result) : Option α :=
  match r with
  | .next t => some (f t)
  | _ => none

/-- The first `k` bytes of TOUT. -/
def bytes (k : Nat) (s : State) : List (Option Byte) := (List.range k).map s.tout.read

/-- The four result registers. -/
def gridRegs (s : State) : List Nat := [s.tcx.toNat, s.tcy.toNat, s.tcnt.toNat, s.tsize.toNat]

/-! ### WellFormed: each check refuses an ill-formed term -/

theorem test_wf_refuses_read_of_cmd : (Transaction.regRead 0).wf 256 = false := by decide
theorem test_wf_refuses_read_of_register_9 : (Transaction.regRead 9).wf 256 = false := by decide
theorem test_wf_refuses_write_of_status : (Transaction.regWrite 1 0#32).wf 256 = false := by decide
theorem test_wf_refuses_write_of_tcx : (Transaction.regWrite 5 0#32).wf 256 = false := by decide
theorem test_wf_refuses_pin_write_at_pmax : (Transaction.pinWrite 256 0#32).wf 256 = false := by decide
theorem test_wf_refuses_pin_read_at_pmax : (Transaction.pinRead 256).wf 256 = false := by decide
theorem test_wf_refuses_pout_read_at_pmax : (Transaction.poutRead 256).wf 256 = false := by decide
theorem test_wf_refuses_tout_read_at_tmax : (Transaction.toutRead 4096).wf 256 = false := by decide
theorem test_wf_refuses_pout_write : (Transaction.poutWrite 0 0#32).wf 256 = false := by decide
theorem test_wf_refuses_tout_write : (Transaction.toutWrite 0 0#8).wf 256 = false := by decide
theorem test_wf_admits_last_elements :
    ((Transaction.regWrite 4 0#32).wf 256 && (Transaction.regRead 8).wf 256 && (Transaction.pinRead 255).wf 256 &&
      (Transaction.toutRead 4095).wf 256) = true := by decide

/-! ### Decoding: ZERO is 24 bits of 0, then OP (R80, R82) -/

theorem test_decode_quant : decode 0b00000000000000000000000000000001#32 = .ok .quant := by decide
theorem test_decode_grid : decode 0b00000000000000000000000000000010#32 = .ok .grid := by decide
theorem test_decode_enc : decode 0b00000000000000000000000000000011#32 = .ok .enc := by decide
theorem test_decode_reserved_zero : decode 0x00000000#32 = .error (.reservedOp 0x00#8) := by decide
theorem test_decode_reserved_op : decode 0x00000004#32 = .error (.reservedOp 0x04#8) := by decide
theorem test_decode_zero_field : decode 0x00000103#32 = .error .zeroField := by decide
theorem test_decodeTableWord : (decodeTableWord 32 1, decodeTableWord 32 2, decodeTableWord 32 3, decodeTableWord 32 7) =
    (some .quant, some .grid, some .enc, none) := by decide

/-! ### The first step after reset (95, table 2.8) -/

theorem test_step_quant_after_reset : look State.status (step (State.reset.withFetchWord 32 1)) = some 1#32 := by decide
theorem test_step_grid_after_reset : look State.status (step (State.reset.withFetchWord 32 2)) = some 1#32 := by decide
theorem test_step_enc_after_reset : look State.status (step (State.reset.withFetchWord 32 3)) = some 1#32 := by decide
theorem test_step_reserved_outranks_dimensions :
    look State.status (step (State.reset.withFetchWord 32 0xFFFFFFFF)) = some 3#32 := by decide

/-! ### QUANT (95, table 2.3: white, the 0/1 tie, mid grey, red) -/

theorem test_quant_image :
    look State.pout (execAt cfg .quant (image 2 2 4 [0xFFFFFF80#32, 0x93B40F7F#32, 0x80808001#32, 0xFF0000FF#32])) =
      some [(0, 0x9BBC0F80#32), (1, 0x9BBC0F7F#32), (2, 0x30623001#32), (3, 0x8BAC0FFF#32)] := by decide +kernel

/-- 95, table 2.8: the product is not wrapped to 32 bits. -/
theorem test_quant_product_is_exact : look State.status (execAt cfg .quant (image 65536 65536 0 [])) = some 1#32 := by decide

/-! ### GRID (95, tables 2.5 and 2.8) -/

theorem test_grid_15_17 : look gridRegs (execAt cfg .grid (image 15 17 0 [])) = some [2, 3, 6, 96] := by decide
theorem test_grid_70000 : look State.status (execAt cfg .grid (image 70000 70000 5 [])) = some 2#32 := by decide

/-! ### ENC (95, P6, and P3's first row) -/

theorem test_enc_unquantized_pixel :
    look (fun t => (t.status, bytes 16 t)) (execAt cfg .enc (image 2 1 2 [0xFFFFFFFF#32, 0x0F380FFF#32])) =
      some (0x10#32, [some 0x40#8, some 0x40#8] ++ List.replicate 14 (some 0#8)) := by decide +kernel

/-- P7, line 1: a 9 × 1 image of PAL1. -/
theorem test_enc_second_tile :
    look (fun t => (gridRegs t, t.tout.read 0, t.tout.read 1, t.tout.read 16, t.tout.read 17))
        (execAt cfg .enc (image 9 1 9 (List.replicate 9 0x8BAC0FFF#32))) =
      some ([2, 1, 2, 32], some 0xFF#8, some 0x00#8, some 0x80#8, some 0x00#8) := by decide +kernel

/-! ### The functions (95, tables 2.1, 2.2, 2.4, 2.6, 2.7) -/

theorem test_dist2_white : (List.finRange 4).map (fun k => dist2 ⟨255#8, 255#8, 255#8⟩ (pal k)) = [72089, 77945, 110347, 154801] := by
  decide
theorem test_nearest_ties :
    [nearest ⟨147#8, 180#8, 15#8⟩, nearest ⟨6#8, 229#8, 1#8⟩, nearest ⟨3#8, 121#8, 4#8⟩, nearest ⟨85#8, 242#8, 248#8⟩,
      nearest ⟨19#8, 192#8, 0#8⟩, nearest ⟨0#8, 0#8, 0#8⟩] = [0, 1, 2, 0, 2, 3] := by decide
theorem test_cidx : [cidx ⟨48#8, 98#8, 48#8⟩, cidx ⟨48#8, 98#8, 49#8⟩, cidx ⟨15#8, 56#8, 14#8⟩, cidx ⟨15#8, 56#8, 15#8⟩] = [2, 0, 0, 3] := by
  decide
theorem test_packRow_01233210 :
    packRow (fun i => mkPixel (pal (([0, 1, 2, 3, 3, 2, 1, 0] : List (Fin 4)).getD i 0)) 0xFF#8) 8 1 0 0 0 = (0x5A#8, 0x3C#8) := by
  decide +kernel

/-- 95, P3: a partial tile, row-major pixels, padding on the right and at the bottom. -/
theorem test_encLoop_5x5 :
    (encLoop (fun i => mkPixel (pal (([0, 1, 2, 3] : List (Fin 4)).getD ((i % 5 + i / 5) % 4) 0)) 0xFF#8) 5 5 1 1 []).2.map (·.2) =
      [0x50#8, 0x30#8, 0xA8#8, 0x60#8, 0x50#8, 0xC8#8, 0xA8#8, 0x98#8, 0x50#8, 0x30#8, 0#8, 0#8, 0#8, 0#8, 0#8, 0#8] := by
  decide +kernel

/-! ### Transactions, bus, script, listing -/

/-- A copied pixel is the one read (R95). -/
theorem test_pinWriteLast : look State.pin (performEvent cfg exec (.pinWriteLast 3) { State.reset with replies := [.word 7#32] }) =
    some [(3, 7#32)] := by decide
theorem test_bus_offsets : (busDecode cfg ⟨4, 4, none⟩, busDecode cfg ⟨36 + 8, 4, some 5#32⟩) =
    (.ok (.regRead 1), .ok (.pinWrite 2 5#32)) := by decide
theorem test_bus_misaligned : busDecode cfg ⟨6, 4, none⟩ = .error (.busMisaligned 6) := by decide
/-- R59: the byte address counts, whatever the base. -/
theorem test_bus_misaligned_base : busDecode { cfg with regBase := 2 } ⟨2, 4, none⟩ = .error (.busMisaligned 2) := by decide
theorem test_script_dims : (ScriptLine.dims 8 (-1)).expand =
    [.host (.regWrite 2 8#32), .host (.regWrite 3 0xFFFFFFFF#32), .host (.regWrite 4 0xFFFFFFF8#32)] := by decide
theorem test_script_copy : (ScriptLine.copy 2).expand =
    [.host (.poutRead 0), .pinWriteLast 0, .host (.poutRead 1), .pinWriteLast 1] := by decide
/-- 95, table 2.9. -/
theorem test_upperBase : (sanitize "niño".toList, upperBase "my-sprite v2.png".toList) =
    ("ni_o".toList, "MY_SPRITE_V2_PNG".toList) := by decide
theorem test_hexByte : [hexByte 0#8, hexByte 10#8, hexByte 90#8, hexByte 171#8, hexByte 255#8] =
    ["0x00".toList, "0x0A".toList, "0x5A".toList, "0xAB".toList, "0xFF".toList] := by decide

/-- R170, the worked example: the constants of the 8 × 8 solid tile named `dark`, in their order, and the first body line. -/
def dark : ListingInput :=
  { bytes := List.replicate 16 0xFF#8, width := 8, height := 8, tileCountX := 1, tileCountY := 1, baseName := "dark".toList, stamp := none }
theorem test_listing_header : cHeader dark =
    "/*".toList ++ lineFeed ++ " * dark: 8x8 pixels, 1x1 tiles, 1 tiles, 16 bytes".toList ++ lineFeed ++ " */".toList ++ lineFeed := by
  decide
theorem test_listing_body : arrayBody cStyle dark.bytes =
    "    0xFF, 0xFF, 0xFF, 0xFF, 0xFF, 0xFF, 0xFF, 0xFF,".toList ++ lineFeed ++
    "    0xFF, 0xFF, 0xFF, 0xFF, 0xFF, 0xFF, 0xFF, 0xFF".toList := by decide
theorem test_listing_constants : ((listingConstants dark).map fun c => cStyle.constant (upperBase dark.baseName ++ c.1) c.2).flatten =
    "#define DARK_WIDTH 8".toList ++ lineFeed ++ "#define DARK_HEIGHT 8".toList ++ lineFeed ++
    "#define DARK_TILE_WIDTH 1".toList ++ lineFeed ++ "#define DARK_TILE_HEIGHT 1".toList ++ lineFeed ++
    "#define DARK_TILE_COUNT 1".toList ++ lineFeed ++ "#define DARK_SIZE 16".toList ++ lineFeed := by decide

/-! ### Witnesses: for each statement with hypotheses, concrete values that meet them, clause by clause.
PMAX is open, so the boundary values of the dimension checks are PMAX × 1 and (PMAX + 1) × 1. -/

/-- A number that a register holds as a positive i32. -/
theorem i32_ofNat {k : Nat} (h : k < 2 ^ 31) : i32 (BitVec.ofNat 32 k) = k := by
  unfold i32
  rw [BitVec.toInt_eq_toNat_of_lt] <;> rw [BitVec.toNat_ofNat, Nat.mod_eq_of_lt (by omega)]
  omega

/-- A one-pixel image: white, unquantized. -/
def one : State := image 1 1 1 [0xFFFFFF80#32]
/-- A one-pixel image of palette colour 3. -/
def oneDark : State := image 1 1 1 [0x0F380FFF#32]
/-- An image of `k` × 1 pixels, none written. -/
def strip (k : Nat) : State := image k 1 k []

theorem ready_one : one.ImageReady Config.platform.pmax :=
  ⟨⟨by decide, by decide, by
    have e : i32 one.w * i32 one.h = 1 := by decide
    rw [e]; exact_mod_cast platform_pmax_pos⟩, by decide⟩

theorem ready_oneDark : oneDark.ImageReady Config.platform.pmax := ready_one

theorem ready_strip {k : Nat} (h1 : 1 ≤ k) (h2 : k ≤ Config.platform.pmax) : (strip k).ImageReady Config.platform.pmax := by
  have hp := platform_pmax_le
  have e : i32 (strip k).w = k := i32_ofNat (by omega)
  have en : i32 (strip k).n = k := i32_ofNat (by omega)
  have eh : i32 (strip k).h = 1 := show i32 1#32 = 1 by decide
  simp only [State.ImageReady, State.GridReady, e, en, eh]
  omega

theorem large_strip : ¬ (strip (Config.platform.pmax + 1)).ImageInvalid ∧ ¬ (strip (Config.platform.pmax + 1)).GridInvalid ∧
    (strip (Config.platform.pmax + 1)).TooLarge Config.platform.pmax := by
  have hp := platform_pmax_le
  have e : i32 (strip (Config.platform.pmax + 1)).w = (Config.platform.pmax + 1 : Nat) := i32_ofNat (by omega)
  have en : i32 (strip (Config.platform.pmax + 1)).n = (Config.platform.pmax + 1 : Nat) := i32_ofNat (by omega)
  have eh : i32 (strip (Config.platform.pmax + 1)).h = 1 := show i32 1#32 = 1 by decide
  simp only [State.ImageInvalid, State.GridInvalid, State.TooLarge, e, en, eh]
  omega

/-- QuantOutcome, EncOutcome, GridOutcome, FirstFailingCheckIsReported: every clause, the third at both ends of its range. -/
theorem witness_outcome_clauses :
    (image 0 1 0 []).ImageInvalid ∧ (image 1 1 2 []).ImageInvalid ∧ (image 1 0 0 []).GridInvalid ∧
    (¬ (strip (Config.platform.pmax + 1)).ImageInvalid ∧ (strip (Config.platform.pmax + 1)).TooLarge Config.platform.pmax) ∧
    (¬ (strip (Config.platform.pmax + 1)).GridInvalid ∧ (strip (Config.platform.pmax + 1)).TooLarge Config.platform.pmax) ∧
    one.ImageReady Config.platform.pmax ∧ (strip Config.platform.pmax).ImageReady Config.platform.pmax ∧
    (strip Config.platform.pmax).GridReady Config.platform.pmax :=
  ⟨by decide, by decide, by decide, ⟨large_strip.1, large_strip.2.2⟩, ⟨large_strip.2.1, large_strip.2.2⟩, ready_one,
    ready_strip platform_pmax_pos le_rfl, (ready_strip platform_pmax_pos le_rfl).1⟩

/-- QuantOutcome: an element of the image that has been written, and one beyond it. -/
theorem witness_quant_elements : 0 < one.pixels ∧ one.pin.read 0 = some 0xFFFFFF80#32 ∧ one.pixels ≤ 1 := by decide

/-- FirstFailingCheckIsReported: each kind of command word at the head of a script, and a state that passes GRID's checks. -/
theorem witness_command_words :
    (one.withFetchWord 32 4).script = [.host (.regWrite 0 4#32)] ∧ (4#32 ≠ 1#32 ∧ 4#32 ≠ 2#32 ∧ 4#32 ≠ 3#32) ∧
    (one.withFetchWord 32 2).script = [.host (.regWrite 0 2#32)] ∧
    (¬ (one.withFetchWord 32 2).GridInvalid ∧ ¬ (one.withFetchWord 32 2).TooLarge Config.platform.pmax) ∧
    (¬ (one.withFetchWord 32 1).ImageInvalid ∧ ¬ (one.withFetchWord 32 1).TooLarge Config.platform.pmax) :=
  ⟨by decide, by decide, by decide, ⟨by decide, not_lt.2 ready_one.1.2.2⟩, ⟨by decide, not_lt.2 ready_one.1.2.2⟩⟩

/-- ReservedWordIsIllegal: the reserved words beside the opcodes, and one with OP = ENC and a bit of ZERO set. -/
theorem witness_ReservedWordIsIllegal :
    (0#32 ≠ 1#32 ∧ 0#32 ≠ 2#32 ∧ 0#32 ≠ 3#32) ∧ (0x103#32 ≠ 1#32 ∧ 0x103#32 ≠ 2#32 ∧ 0x103#32 ≠ 3#32) ∧
    (State.reset.withFetchWord 32 0).script = .host (.regWrite 0 0#32) :: [] := by decide

/-- DecodeInvertsEncode, StepRunsDecodedCommand. -/
theorem witness_StepRunsDecodedCommand :
    (State.reset.withFetchWord 32 3).script = .host (.regWrite 0 3#32) :: [] ∧ decode 3#32 = .ok .enc := by decide

/-- ErrorWritesOnlyStatus. -/
theorem witness_ErrorWritesOnlyStatus :
    (State.reset.withFetchWord 32 1).script = .host (.regWrite 0 1#32) :: [] ∧
    ∃ t, step (State.reset.withFetchWord 32 1) = .next t ∧ t.err ≠ 0#2 := ⟨by decide, _, rfl, by decide⟩

/-- CommandsKeepTheirOperands, CommandsAreIdempotent: every command answers, and the memories are canonical. -/
theorem witness_exec_answers : (∀ i, ∃ t, exec i one = .next t) ∧ one.pout.wf ∧ one.tout.wf :=
  ⟨fun i => ⟨_, exec_eq i one⟩, by decide, by decide⟩

/-- StreamHasClosedForm, ReadBackRecoversEveryPixel, PaddingIsZeroInBothPlanes, GridForetellsEnc on the one-pixel image: a byte, a tile row,
a pixel, and a position outside on the right and at the bottom. -/
theorem witness_enc_positions :
    one.ImageReady Config.platform.pmax ∧ (encAt Config.platform one).tsize.toNat = 16 ∧
    (encAt Config.platform one).tcx.toNat = 1 ∧ (encAt Config.platform one).tcy.toNat = 1 ∧
    0 < one.width ∧ 0 < one.height ∧ one.width ≤ 8 * 0 + 1 ∧ one.height ≤ 8 * 0 + 7 := by
  rw [encAt_ready ready_one]
  exact ⟨ready_one, by decide, by decide, by decide, by decide, by decide, by decide, by decide⟩

/-- UnqReportsUnquantizedPixels: both clauses. -/
theorem witness_UnqReportsUnquantizedPixels :
    (one.ImageReady Config.platform.pmax ∧ 0 < one.width ∧ 0 < one.height ∧ ∀ k, pixColor (one.pinValue (0 * one.width + 0)) ≠ pal k) ∧
    (oneDark.ImageReady Config.platform.pmax ∧
      ∀ x y, x < oneDark.width → y < oneDark.height → ∃ k, pixColor (oneDark.pinValue (y * oneDark.width + x)) = pal k) := by
  refine ⟨⟨ready_one, by decide, by decide, by decide⟩, ready_oneDark, fun x y hx hy => ⟨3, ?_⟩⟩
  have ew : oneDark.width = 1 := by decide
  have eh : oneDark.height = 1 := by decide
  rw [ew] at hx ⊢
  rw [eh] at hy
  obtain rfl : x = 0 := by omega
  obtain rfl : y = 0 := by omega
  decide

/-- QuantizedImageIsUnchanged. -/
theorem witness_QuantizedImageIsUnchanged : oneDark.ImageReady Config.platform.pmax ∧
    ∀ j < oneDark.pixels, ∃ k, pixColor (oneDark.pinValue j) = pal k :=
  ⟨ready_oneDark, by decide⟩

/-- AlphaNeverReachesTheTiles: another alpha. PixelsBeyondTheImageAreIgnored: another element beyond the image. -/
theorem witness_other_memories :
    (∀ j < one.pixels, pixColor ({ one with pin := [(0, 0xFFFFFF00#32)] }.pinValue j) = pixColor (one.pinValue j)) ∧
    (∀ j < one.pixels, Memory.read ([(0, 0xFFFFFF80#32), (1, 5#32)] : Memory 32) j = one.pin.read j) := by decide

/-- WrittenImageLeavesNothingOpen. -/
theorem witness_WrittenImageLeavesNothingOpen : one.PixelsWritten := by decide

/-- QuantIgnoresTheShape: PMAX × 1 and 1 × PMAX. -/
theorem witness_QuantIgnoresTheShape :
    (strip Config.platform.pmax).ImageReady Config.platform.pmax ∧
    { strip Config.platform.pmax with w := (strip Config.platform.pmax).h, h := (strip Config.platform.pmax).w }.ImageReady
      Config.platform.pmax := by
  have h := ready_strip platform_pmax_pos (le_refl Config.platform.pmax)
  refine ⟨h, ?_⟩
  obtain ⟨⟨a, b, c⟩, d⟩ := h
  exact ⟨⟨b, a, by rwa [mul_comm] at c⟩, by rw [mul_comm] at d; exact d⟩

/-- AnyPixelOrderGivesTheSameImage: backwards. -/
theorem witness_AnyPixelOrderGivesTheSameImage : Memory.wf ([] : Memory 32) ∧ [1, 0].Perm (List.range 2) := by decide

/-- An 8 × 8 image of one palette colour. -/
def solid (k : Fin 4) : State := image 8 8 64 (List.replicate 64 (mkPixel (pal k) 0#8))

/-- SolidTileBytes, for each palette colour. -/
theorem witness_SolidTileBytes : ∀ k : Fin 4, 64 ≤ cfg.pmax ∧ (solid k).w = 8#32 ∧ (solid k).h = 8#32 ∧ (solid k).n = 64#32 ∧
    ∀ j < 64, pixColor ((solid k).pinValue j) = pal k := by decide +kernel

/-- TiesOfThePalette: a colour of each tied set (95, table 2.2; R118). -/
theorem witness_TiesOfThePalette :
    ([⟨147#8, 180#8, 15#8⟩, ⟨6#8, 229#8, 1#8⟩, ⟨3#8, 121#8, 4#8⟩, ⟨88#8, 241#8, 255#8⟩, ⟨85#8, 242#8, 248#8⟩] : List Color).map
        (fun c => (List.finRange 4).filter fun k => decide (∀ j, dist2 c (pal k) ≤ dist2 c (pal j))) =
      [[0, 1], [1, 2], [2, 3], [0, 2], [0, 1, 2]] := by decide

/-- ExactMatchOrZero, PaletteTable: a colour one unit away from an entry. -/
theorem witness_ExactMatchOrZero : ∀ k, (⟨48#8, 98#8, 49#8⟩ : Color) ≠ pal k := by decide

/-- TileGridIsTheCeiling, StreamFitsTout: the smallest image, and the largest of one row. -/
theorem witness_StreamFitsTout : 1 ≤ 1 ∧ 1 * 1 ≤ cfg.pmax ∧ 256 * 1 ≤ cfg.pmax := by decide

/-- OperandWriteStoresTheWord, NothingMovesWithoutAnEvent, ResetEventRestoresReset: the scripts. -/
theorem witness_scripts :
    { State.reset with script := [.host (.regWrite 2 5#32)] }.script = .host (.regWrite 2 5#32) :: [] ∧
    { State.reset with script := [.host (.regWrite 3 5#32)] }.script = .host (.regWrite 3 5#32) :: [] ∧
    { State.reset with script := [.host (.regWrite 4 5#32)] }.script = .host (.regWrite 4 5#32) :: [] ∧
    State.reset.script = [] ∧ { one with script := [.reset] }.script = .reset :: [] := by decide

/-- RegisterReadReturnsTheWord: the first and the last register. -/
theorem witness_RegisterReadReturnsTheWord :
    (1 ≤ 1 ∧ 1 ≤ 8 ∧ { one with script := [.host (.regRead 1)] }.script = .host (.regRead 1) :: []) ∧
    (1 ≤ 8 ∧ 8 ≤ 8 ∧ { one with script := [.host (.regRead 8)] }.script = .host (.regRead 8) :: []) := by decide

/-- PinWriteStoresOneElement, BufferReadsReturnTheContents: the last element of each space. -/
theorem witness_last_elements :
    (Config.platform.pmax - 1 < Config.platform.pmax ∧
      { one with script := [.host (.pinWrite (Config.platform.pmax - 1) 0#32)] }.script =
        .host (.pinWrite (Config.platform.pmax - 1) 0#32) :: []) ∧
    { one with script := [.host (.pinRead (Config.platform.pmax - 1))] }.script = .host (.pinRead (Config.platform.pmax - 1)) :: [] ∧
    { one with script := [.host (.poutRead (Config.platform.pmax - 1))] }.script = .host (.poutRead (Config.platform.pmax - 1)) :: [] ∧
    (Config.platform.tmax - 1 < Config.platform.tmax ∧
      { one with script := [.host (.toutRead (Config.platform.tmax - 1))] }.script = .host (.toutRead (Config.platform.tmax - 1)) :: []) := by
  have := platform_pmax_pos
  have := platform_tmax Config.platform
  exact ⟨⟨by omega, rfl⟩, rfl, rfl, by omega, rfl⟩

/-- BufferReadsReturnTheContents: an element that has been written. -/
theorem witness_written_element : one.pin.read 0 = some 0xFFFFFF80#32 := by decide

/-- InterfaceIsExactlyItsTransactions: a transaction of the interface, and one outside it. -/
theorem witness_InterfaceIsExactlyItsTransactions :
    { one with script := [.host (.regRead 8)] }.script = .host (.regRead 8) :: [] ∧ (Transaction.regRead 8).wf Config.platform.pmax = true ∧
    { one with script := [.host (.regRead 9)] }.script = .host (.regRead 9) :: [] ∧
    (Transaction.regRead 9).wf Config.platform.pmax = false := by
  exact ⟨rfl, rfl, rfl, rfl⟩

/-- OutsideAccessesStopByName: each clause at the ends of its range. Its script is `one` with the access at the head. -/
theorem witness_OutsideAccessesStopByName :
    (1 = 1 ∨ 5 ≤ 1 ∧ 1 ≤ 8) ∧ (5 = 1 ∨ 5 ≤ 5 ∧ 5 ≤ 8) ∧ (8 = 1 ∨ 5 ≤ 8 ∧ 8 ≤ 8) ∧ 9 ≤ 9 ∧
    Config.platform.pmax ≤ Config.platform.pmax ∧ Config.platform.pmax - 1 < Config.platform.pmax ∧
    Config.platform.tmax ≤ Config.platform.tmax ∧ Config.platform.tmax - 1 < Config.platform.tmax ∧
    ∀ t, { one with script := [.host t] }.script = .host t :: [] := by
  have := platform_pmax_pos
  have := platform_tmax Config.platform
  exact ⟨by omega, by omega, by omega, by omega, le_rfl, by omega, le_rfl, by omega, fun _ => rfl⟩

/-- CopyWritesTheWordRead: each clause, the index at both ends of its range, the last reply a word, a byte, or none. -/
theorem witness_CopyWritesTheWordRead :
    Config.platform.pmax - 1 < Config.platform.pmax ∧ Config.platform.pmax ≤ Config.platform.pmax ∧
    (∀ i, { one with script := [.pinWriteLast i], replies := [.byte 1#8, .word 7#32] }.script = .pinWriteLast i :: []) ∧
    [Reply.byte 1#8, .word 7#32].getLast? = some (.word 7#32) ∧
    (∀ v, [Reply.byte 1#8].getLast? ≠ some (.word v)) ∧ (∀ v, one.replies.getLast? ≠ some (.word v)) ∧
    (∀ i, { one with script := [.host (.poutRead i), .pinWriteLast i] }.script = .host (.poutRead i) :: .pinWriteLast i :: []) := by
  have := platform_pmax_pos
  exact ⟨by omega, le_rfl, fun _ => rfl, by decide, fun _ => by simp, fun _ => by simp [one, image, State.reset], fun _ => rfl⟩

/-- EveryStoreHasItsOneWriter, EveryStepKeepsTheInvariant: a state with the invariant, and its step. -/
theorem witness_step : State.reset.Inv Config.platform.pmax ∧ ∃ t, step (State.reset.withFetchWord 32 2) = .next t := by
  refine ⟨⟨by decide, by decide, by decide, ?_, ?_, ?_, legalStatus_ok false, ?_⟩, _, rfl⟩ <;>
    simp [State.reset, Memory.below, State.GridConsistent]

/-- BusOffsetsNameTheElements: windows that touch, at bases that are multiples of 4. -/
theorem witness_BusOffsetsNameTheElements :
    WindowsApart cfg ∧ cfg.regBase % 4 = 0 ∧ cfg.pinBase % 4 = 0 ∧ cfg.poutBase % 4 = 0 ∧ 8 < 9 ∧ 255 < cfg.pmax ∧ 4095 < cfg.tmax :=
  ⟨⟨by decide, by decide, by decide, by decide, by decide, by decide⟩, by decide, by decide, by decide, by decide, by decide, by decide⟩

/-- BusAccessIsItsTransaction: an access that names STATUS, one of the last byte of TOUT, and one of the wrong size. -/
theorem witness_BusAccessIsItsTransaction :
    busDecode cfg ⟨4, 4, none⟩ = .ok (.regRead 1) ∧ busDecode cfg ⟨36 + 2048 + 4095, 1, none⟩ = .ok (.toutRead 4095) ∧
    busDecode cfg ⟨0, 2, none⟩ = .error (.busSize 2) ∧
    { one with script := [.bus ⟨4, 4, none⟩] }.script = .bus ⟨4, 4, none⟩ :: [] := by decide

/-- BusAccessOutsideTheRuleNamesNothing: in each window an access that breaks the rule. -/
theorem witness_BusAccessOutsideTheRuleNamesNothing :
    (cfg.regBase ≤ 35 ∧ 35 < cfg.regBase + 36 ∧ 35 % 4 ≠ 0) ∧ (cfg.pinBase ≤ 36 ∧ 36 < cfg.pinBase + 4 * cfg.pmax ∧ 8 ≠ 4) ∧
    (cfg.poutBase ≤ 1061 ∧ 1061 < cfg.poutBase + 4 * cfg.pmax ∧ 1061 % 4 ≠ 0) ∧
    (cfg.toutBase ≤ 2084 ∧ 2084 < cfg.toutBase + cfg.tmax ∧ 4 ≠ 1) := by decide

/-- SanitizeActsCharacterwise: a kept character and a replaced one. -/
theorem witness_SanitizeActsCharacterwise :
    "a-".toList[0]? = some 'a' ∧ ('a' ≤ 'a' ∧ 'a' ≤ 'z') ∧ "a-".toList[1]? = some '-' ∧
    ¬ (('A' ≤ '-' ∧ '-' ≤ 'Z') ∨ ('a' ≤ '-' ∧ '-' ≤ 'z') ∨ ('0' ≤ '-' ∧ '-' ≤ '9') ∨ '-' = '_') := by decide

/-- ListingLinesHoldEightValues: one tile. -/
theorem witness_ListingLinesHoldEightValues : dark.bytes.length = 16 * 1 := by decide

end Sys2Proof.Tests
end

