-- ==== Sys2Proof/Proofs/Scope.lean ====
section
/-! PROOFS. The statement of 00_scope.md: capacity. -/

namespace Sys2Proof.Machine

/-- The number of tiles of an image, bounded on both sides: the sides of the grid are bounded one by one (`tgrid_bounds`),
and multiplication is monotone (R11). -/
theorem tileCount_bounds {width height : Nat} (hw : 1 ≤ width) (hh : 1 ≤ height) :
    1 ≤ (tgrid width height).1 * (tgrid width height).2 ∧
      (tgrid width height).1 * (tgrid width height).2 ≤ width * height := by
  obtain ⟨tcxPos, tcxLe, tcyPos, tcyLe⟩ := tgrid_bounds hw hh
  exact ⟨Nat.mul_pos tcxPos tcyPos, Nat.mul_le_mul tcxLe tcyLe⟩

/-- Settles O34: at most one tile per pixel, and TMAX is 16 bytes per pixel of PMAX. -/
theorem streamFitsTout : Obligations.StreamFitsTout := by
  intro p width height hw hh fits
  obtain ⟨nonempty, tilesLe⟩ := tileCount_bounds hw hh
  refine ⟨nonempty, ?_⟩
  calc 16 * ((tgrid width height).1 * (tgrid width height).2)
      ≤ 16 * p.pmax := Nat.mul_le_mul_left 16 (tilesLe.trans fits)
    _ = p.tmax := (platform_tmax p).symm

end Sys2Proof.Machine
end

/-! PROOFS. The statements of 10_state.md: the stores, which event writes each of them, and the invariant that every step keeps. -/

namespace Sys2Proof.Machine

/-! ### The decoder (R81, R82) -/

/-- A command word is its two fields: no bit is outside ZERO and OP (R80). -/
theorem zeroField_append_opField (v : Word) : zeroField v ++ opField v = v :=
  BitVec.extractLsb'_append_extractLsb' (w := 24) (len := 8)

theorem eq_append_of_fields {v : Word} {zero : BitVec 24} {op : Byte} (hzero : zeroField v = zero) (hop : opField v = op) :
    v = zero ++ op := by
  rw [← hzero, ← hop, zeroField_append_opField]

/-- Only the command word of `i` decodes to `i`: each branch of the decoder has tested both fields. -/
theorem eq_encode_of_decode {v : Word} {i : Instr} (h : decode v = .ok i) : v = encode i := by
  unfold decode at h
  split at h
  next hzero =>
    split at h
    next hop => cases h; exact eq_append_of_fields hzero hop
    split at h
    next hop => cases h; exact eq_append_of_fields hzero hop
    split at h
    next hop => cases h; exact eq_append_of_fields hzero hop
    cases h
  · cases h

/-! ### What the loops read: PIN below W × H (R33), and of it ENC the colours only (R87) -/

/-- QUANT's loop reads the elements below its count only. -/
theorem quantLoop_congr {pin pin' : Nat → Word} {count : Nat} (h : ∀ j < count, pin' j = pin j) (pout : Memory 32) :
    quantLoop pin' count pout = quantLoop pin count pout :=
  loop_congr fun k hk _ => by rw [h k hk]

/-- An in-bounds position is an element below W × H (R55). -/
theorem pixelIndex_lt {width height x y : Nat} (hx : x < width) (hy : y < height) : y * width + x < width * height := by
  calc y * width + x < y * width + width := Nat.add_lt_add_left hx _
    _ = width * (y + 1) := by ring
    _ ≤ width * height := Nat.mul_le_mul_left width hy

/-- UNQ says that some in-bounds pixel equals no palette entry (R144). -/
theorem unqOf_iff (pin : Nat → Word) (width height : Nat) :
    unqOf pin width height = true ↔ ∃ y < height, ∃ x < width, ∀ k, pixColor (pin (y * width + x)) ≠ pal k := by
  simp only [unqOf, List.any_eq_true, List.mem_range, Option.isNone_iff_eq_none, cidxMatch_eq_none]

section SameColours

variable {pin pin' : Nat → Word} {width height : Nat} (h : ∀ j < width * height, pixColor (pin' j) = pixColor (pin j))
include h

/-- Inside the image the index is that of the pixel's colour; outside, PIN is not read (R134). -/
theorem idxAt_congr (x y : Nat) : idxAt pin' width height x y = idxAt pin width height x y := by
  unfold idxAt
  split
  next inBounds => rw [h _ (pixelIndex_lt inBounds.1 inBounds.2)]
  next => rfl

theorem packRow_congr (tx ty row : Nat) : packRow pin' width height tx ty row = packRow pin width height tx ty row :=
  loop_congr fun _ _ _ => by rw [idxAt_congr h]

theorem encLoop_congr (tcx tcy : Nat) (tout : Memory 8) :
    encLoop pin' width height tcx tcy tout = encLoop pin width height tcx tcy tout :=
  loop_congr fun _ _ _ => loop_congr fun _ _ _ => loop_congr fun _ _ _ => by rw [packRow_congr h]

theorem unqOf_congr : unqOf pin' width height = unqOf pin width height := by
  rw [Bool.eq_iff_iff, unqOf_iff, unqOf_iff]
  refine exists_congr fun y => and_congr_right fun hy => exists_congr fun x => and_congr_right fun hx => ?_
  rw [h _ (pixelIndex_lt hx hy)]

end SameColours

/-! ### Every command as one validated body -/

/-- Does the command examine N (R181)? -/
def examinesN : Instr → Bool
  | .quant => true
  | .grid => false
  | .enc => true

/-- What the command does after its checks. -/
def commandBody : Instr → State → State
  | .quant => State.quantBody
  | .grid => State.gridBody
  | .enc => State.encBody

theorem commandAt_eq_validated (p : Platform) (i : Instr) (s : State) :
    commandAt p i s = s.validated p.pmax (examinesN i) (commandBody i) := by
  cases i <;> rfl

/-- Dimensions that pass the checks of any command pass those of GRID. -/
theorem gridReady_of_dimsError {s : State} {pmax : Nat} {u : Bool} (h : s.dimsError pmax u = none) : s.GridReady pmax := by
  cases u
  case false => exact (dimsError_grid s pmax).1 h
  case true => exact ((dimsError_image s pmax).1 h).1

/-- Everything a command can do: raise an error, or run its body on dimensions that passed the checks. -/
theorem commandAt_cases (p : Platform) (i : Instr) (s : State) :
    (∃ e, commandAt p i s = s.raise e) ∨ (s.GridReady p.pmax ∧ commandAt p i s = commandBody i s) := by
  rw [commandAt_eq_validated]
  rcases validated_cases s p.pmax (examinesN i) (commandBody i) with ⟨e, -, -, raised⟩ | ⟨passed, ran⟩
  · exact .inl ⟨e, raised⟩
  · exact .inr ⟨gridReady_of_dimsError passed, ran⟩

/-- Two runs of a command on dimensions that the checks do not tell apart: what relates the raised states and the results of the
body relates the next states. -/
theorem commandAt_rel {R : State → State → Prop} {p : Platform} {i : Instr} {s s' : State}
    (check : ∀ u, s'.dimsError p.pmax u = s.dimsError p.pmax u) (raised : ∀ e, R (s.raise e) (s'.raise e))
    (ran : R (commandBody i s) (commandBody i s')) : R (commandAt p i s) (commandAt p i s') := by
  rw [commandAt_eq_validated, commandAt_eq_validated]
  unfold State.validated
  rw [check]
  cases s.dimsError p.pmax (examinesN i) with
  | none => exact ran
  | some e => exact raised e

/-- A width below 1 fails the first check of every command (R181). -/
theorem commandAt_of_width_lt {s : State} (h : i32 s.w < 1) (p : Platform) (i : Instr) :
    commandAt p i s = s.raise .invalidDimensions := by
  have failed : s.dimsError p.pmax (examinesN i) = some .invalidDimensions := if_pos (.inl h)
  rw [commandAt_eq_validated, State.validated, failed]

/-- The body writes the whole of STATUS and reads nothing of it (R25, R26). -/
theorem commandBody_status (i : Instr) (s : State) (v : Word) : commandBody i { s with status := v } = commandBody i s := by
  cases i <;> rfl

/-- The body reads PIN below W × H only, and leaves PIN as it is (R33). -/
theorem commandBody_pin (i : Instr) {s : State} {m : Memory 32} (h : ∀ j < s.pixels, m.read j = s.pin.read j) :
    commandBody i { s with pin := m } = { commandBody i s with pin := m } := by
  have words : ∀ j < s.pixels, { s with pin := m }.pinValue j = s.pinValue j := fun j hj => by
    simp only [State.pinValue, h j hj]
  cases i with
  | quant => exact congrArg (fun a => { s with pin := m, pout := a }.finish .ok false) (quantLoop_congr words s.pout)
  | grid => rfl
  | enc =>
    have colours : ∀ j < s.width * s.height, pixColor ({ s with pin := m }.pinValue j) = pixColor (s.pinValue j) :=
      fun j hj => congrArg pixColor (words j hj)
    have stream := encLoop_congr colours (tgrid s.width s.height).1 (tgrid s.width s.height).2 s.tout
    exact congrArg₂ (fun (a : Nat × Memory 8) u =>
      ({ s with pin := m, tout := a.2 }.setGrid (tgrid s.width s.height).1 (tgrid s.width s.height).2).finish .ok u)
      stream (unqOf_congr colours)

/-- No command writes W, H, N or PIN, nor the host's side of the model (R22, R33). -/
theorem commandAt_keeps_operands (p : Platform) (i : Instr) (s : State) :
    (commandAt p i s).w = s.w ∧ (commandAt p i s).h = s.h ∧ (commandAt p i s).n = s.n ∧ (commandAt p i s).pin = s.pin ∧
      (commandAt p i s).script = s.script ∧ (commandAt p i s).replies = s.replies ∧ (commandAt p i s).serial = s.serial := by
  rcases commandAt_cases p i s with ⟨e, raised⟩ | ⟨-, ran⟩
  · rw [raised]; simp
  · rw [ran]
    cases i <;> exact ⟨rfl, rfl, rfl, rfl, rfl, rfl, rfl⟩

/-- Only QUANT writes POUT, only ENC writes TOUT, and only GRID and ENC write the result registers (R34, R35, R24). -/
theorem commandAt_writes_its_outputs (p : Platform) (i : Instr) (s : State) :
    ((commandAt p i s).pout ≠ s.pout → i = .quant) ∧ ((commandAt p i s).tout ≠ s.tout → i = .enc) ∧
    ((commandAt p i s).tcx ≠ s.tcx ∨ (commandAt p i s).tcy ≠ s.tcy ∨ (commandAt p i s).tcnt ≠ s.tcnt ∨
      (commandAt p i s).tsize ≠ s.tsize → i = .grid ∨ i = .enc) := by
  rcases commandAt_cases p i s with ⟨e, raised⟩ | ⟨-, ran⟩
  · rw [raised]; simp
  · rw [ran]
    cases i with
    | quant => simp [commandBody, State.quantBody]
    | grid => simp [commandBody, State.gridBody]
    | enc => simp [commandBody, State.encBody]

/-! ### What one event does (R52, R60, R95, R210) -/

/-- The step at a transaction. -/
theorem step_host {s : State} {t : Transaction} {rest : List Event} (h : s.script = .host t :: rest) :
    step s = performTransaction Config.platform exec t (s.advance rest) :=
  step_cons h

/-- Registers 1 to 8 in the order of R21. -/
theorem register_eq_getElem? (s : State) {n : Nat} (h1 : 1 ≤ n) (h8 : n ≤ 8) :
    s.register n = [s.status, s.w, s.h, s.n, s.tcx, s.tcy, s.tcnt, s.tsize][n - 1]? := by
  interval_cases n <;> rfl

theorem readRegister_of_register {n : Nat} {s : State} {v : Word} (h : s.register n = some v) :
    readRegister n s = .next (s.reply (.word v)) := by
  rw [readRegister, h]

theorem writePin_of_lt {p : Platform} {i : Nat} (h : i < p.pmax) (v : Word) (s : State) :
    writePin p i v s = .next { s with pin := s.pin.write i v } :=
  if_pos h

/-- An element that has been written reads as what was last written to it (R36). -/
theorem State.pinValue_of_read {s : State} {i : Nat} {v : Word} (h : s.pin.read i = some v) : s.pinValue i = v := by
  rw [State.pinValue, h, Option.getD_some]

theorem State.poutValue_of_read {s : State} {i : Nat} {v : Word} (h : s.pout.read i = some v) : s.poutValue i = v := by
  rw [State.poutValue, h, Option.getD_some]

theorem State.toutValue_of_read {s : State} {k : Nat} {b : Byte} (h : s.tout.read k = some b) : s.toutValue k = b := by
  rw [State.toutValue, h, Option.getD_some]

/-- What a next state can be, and which event answers it, on the platform with every parameter open. -/
inductive Effect (e : Event) (s : State) : State → Prop
  | command (i : Instr) (issued : Event.Issues Config.platform e i) : Effect e s (commandAt Config.platform i s)
  | illegal (v : Word) (written : Event.Is Config.platform e (.regWrite 0 v)) : Effect e s (s.raise .illegalCmd)
  | width (v : Word) (written : Event.Is Config.platform e (.regWrite 2 v)) : Effect e s { s with w := v }
  | height (v : Word) (written : Event.Is Config.platform e (.regWrite 3 v)) : Effect e s { s with h := v }
  | count (v : Word) (written : Event.Is Config.platform e (.regWrite 4 v)) : Effect e s { s with n := v }
  | pixel (i : Nat) (v : Word) (written : Event.WritesPin Config.platform e) (inRange : i < Config.platform.pmax) :
      Effect e s { s with pin := s.pin.write i v }
  | reply (r : Reply) : Effect e s (s.reply r)
  | reset (applied : e = .reset) : Effect e s s.applyReset

theorem issueCommand_effect {e : Event} {v : Word} {s t : State} (written : Event.Is Config.platform e (.regWrite 0 v))
    (h : issueCommand exec v s = .next t) : Effect e s t := by
  rcases issueCommand_cases exec v s with ⟨i, decoded, ran⟩ | ⟨-, -, raised⟩
  · rw [ran, exec_eq] at h
    cases h
    obtain rfl := eq_encode_of_decode decoded
    exact .command i written
  · rw [raised] at h
    cases h
    exact .illegal v written

theorem performTransaction_effect {e : Event} {x : Transaction} {s t : State} (is : Event.Is Config.platform e x)
    (h : performTransaction Config.platform exec x s = .next t) : Effect e s t := by
  rcases performTransaction_next h with
    ⟨v, rfl, issued⟩ | ⟨v, rfl, rfl⟩ | ⟨v, rfl, rfl⟩ | ⟨v, rfl, rfl⟩ | ⟨i, v, rfl, inRange, rfl⟩ | ⟨r, rfl⟩
  · exact issueCommand_effect is issued
  · exact .width v is
  · exact .height v is
  · exact .count v is
  · exact .pixel i v (.inl ⟨i, v, is⟩) inRange
  · exact .reply r

/-- Every event that answers a next state has one of these effects. -/
theorem performEvent_effect {e : Event} {s t : State} (h : performEvent Config.platform exec e s = .next t) :
    Effect e s t := by
  rcases performEvent_next h with ⟨x, is, performed⟩ | ⟨i, v, last, inRange, rfl⟩ | ⟨applied, rfl⟩
  · exact performTransaction_effect is performed
  · exact .pixel i v (.inr ⟨i, last⟩) inRange
  · exact .reset applied

/-- Everything a step can do: nothing, or the effect of the next event of the script. -/
theorem step_cases {s t : State} (h : step s = .next t) :
    (s.script = [] ∧ t = s) ∨ ∃ e rest, s.script = e :: rest ∧ Effect e (s.advance rest) t := by
  cases script : s.script with
  | nil =>
    rw [step_nil script] at h
    cases h
    exact .inl ⟨rfl, rfl⟩
  | cons e rest =>
    rw [step_cons script] at h
    exact .inr ⟨e, rest, rfl, performEvent_effect h⟩

/-! ### The invariant -/

namespace State.Inv

variable {s : State}

/-- R39: all registers are zero, and no memory lists anything. -/
theorem reset (pmax : Nat) : State.reset.Inv pmax where
  pin_wf := Memory.wf_nil
  pout_wf := Memory.wf_nil
  tout_wf := Memory.wf_nil
  pin_below := by simp [State.reset]
  pout_below := by simp [State.reset]
  tout_below := by simp [State.reset]
  status_legal := legalStatus_ok false
  grid_consistent := by simp [State.reset, State.GridConsistent]

variable {pmax : Nat} (inv : s.Inv pmax)
include inv

theorem advance (rest : List Event) : (s.advance rest).Inv pmax := { inv with }

theorem finish {e : ErrCode} {u : Bool} (legal : LegalStatus (statusWord e u)) : (s.finish e u).Inv pmax :=
  { inv with status_legal := legal }

theorem raise (e : ErrCode) : (s.raise e).Inv pmax := inv.finish (legalStatus_error e)

theorem writePin {i : Nat} (inRange : i < pmax) (v : Word) : State.Inv { s with pin := s.pin.write i v } pmax :=
  { inv with
    pin_wf := Memory.wf_write inv.pin_wf i v
    pin_below := Memory.below_write inv.pin_below inRange v }

end State.Inv

section OpenPlatform

variable {s : State} (inv : s.Inv Config.platform.pmax) (ready : s.GridReady Config.platform.pmax)
include inv ready

/-- On dimensions that pass the checks the result registers hold the grid, unwrapped (R139). -/
theorem State.Inv.setGrid : (s.setGrid (tgrid s.width s.height).1 (tgrid s.width s.height).2).Inv Config.platform.pmax :=
  { inv with
    grid_consistent := by
      obtain ⟨⟨tcx, tcy, tcnt, tsize⟩, tcxLe, tcyLe, tcntLe, -, -⟩ := GridReady.registers ready rfl rfl
      rw [State.GridConsistent, State.setGrid_tcx, State.setGrid_tcy, State.setGrid_tcnt, State.setGrid_tsize,
        tcx, tcy, tcnt, tsize]
      exact ⟨rfl, Nat.mul_comm _ _, tcxLe, tcyLe, tcntLe⟩ }

/-- QUANT writes below W × H, which is at most PMAX. -/
theorem State.Inv.quantBody : s.quantBody.Inv Config.platform.pmax := by
  obtain ⟨-, -, -, -, pixelsLe⟩ := GridReady.dims ready
  exact { inv with
    pout_wf := wf_quantLoop _ _ inv.pout_wf
    pout_below := below_quantLoop _ inv.pout_below pixelsLe
    status_legal := legalStatus_ok false }

/-- ENC writes 16 bytes a tile, and there are at most PMAX tiles (R11). -/
theorem State.Inv.encLoop : State.Inv { s with tout :=
    (encLoop s.pinValue s.width s.height (tgrid s.width s.height).1 (tgrid s.width s.height).2 s.tout).2 }
    Config.platform.pmax := by
  obtain ⟨-, -, -, tcntLe, -, -⟩ := GridReady.registers ready rfl rfl
  have emitted := encLoop_emitted s.pinValue s.width s.height (tgrid s.width s.height).1 (tgrid s.width s.height).2 s.tout
  exact { inv with
    tout_wf := emitted.wf inv.tout_wf
    tout_below := emitted.below _ inv.tout_below (Nat.mul_le_mul_left 16 (Nat.mul_comm _ _ ▸ tcntLe)) }

theorem State.Inv.commandBody (i : Instr) : (commandBody i s).Inv Config.platform.pmax := by
  cases i with
  | quant => exact inv.quantBody ready
  | grid => exact (inv.setGrid ready).finish (legalStatus_ok false)
  | enc => exact (State.Inv.setGrid (inv.encLoop ready) ready).finish (legalStatus_ok _)

omit ready in
theorem State.Inv.commandAt (i : Instr) : (commandAt Config.platform i s).Inv Config.platform.pmax := by
  rcases commandAt_cases Config.platform i s with ⟨e, raised⟩ | ⟨ready, ran⟩
  · rw [raised]; exact inv.raise e
  · rw [ran]; exact inv.commandBody ready i

omit ready in
theorem State.Inv.effect {e : Event} {t : State} (h : Effect e s t) : t.Inv Config.platform.pmax := by
  cases h with
  | command i => exact inv.commandAt i
  | illegal => exact inv.raise .illegalCmd
  | pixel i v written inRange => exact inv.writePin inRange v
  | reset => exact { State.Inv.reset Config.platform.pmax with }
  | width | height | count | reply => exact { inv with }

end OpenPlatform

/-- Settles O49, by the effects an event can have: each of them keeps the invariant. -/
theorem everyStepKeepsTheInvariant : Obligations.EveryStepKeepsTheInvariant := by
  intro s t inv h
  rcases step_cases h with ⟨-, rfl⟩ | ⟨e, rest, -, effect⟩
  · exact inv
  · exact (inv.advance rest).effect effect

/-- Settles O48: the reset state lists nothing and holds zeros, and 0 is a legal STATUS. -/
theorem resetSatisfiesTheInvariant : Obligations.ResetSatisfiesTheInvariant :=
  State.Inv.reset Config.platform.pmax

/-! ### Each store and its writer -/

/-- Between `s` and `t` each store is as before, or the event is one of those that may write the store. -/
structure OneWriter (e : Event) (s t : State) : Prop where
  pin : t.pin ≠ s.pin → Event.WritesPin Config.platform e
  pout : t.pout ≠ s.pout → Event.Issues Config.platform e .quant
  tout : t.tout ≠ s.tout → Event.Issues Config.platform e .enc
  grid : t.tcx ≠ s.tcx ∨ t.tcy ≠ s.tcy ∨ t.tcnt ≠ s.tcnt ∨ t.tsize ≠ s.tsize →
    Event.Issues Config.platform e .grid ∨ Event.Issues Config.platform e .enc
  status : t.status ≠ s.status → ∃ v, Event.Is Config.platform e (.regWrite 0 v)
  width : t.w ≠ s.w → ∃ v, Event.Is Config.platform e (.regWrite 2 v)
  height : t.h ≠ s.h → ∃ v, Event.Is Config.platform e (.regWrite 3 v)
  count : t.n ≠ s.n → ∃ v, Event.Is Config.platform e (.regWrite 4 v)

/-- Where nothing has changed there is nothing to account for. -/
theorem OneWriter.unchanged (e : Event) (s : State) : OneWriter e s s where
  pin changed := absurd rfl changed
  pout changed := absurd rfl changed
  tout changed := absurd rfl changed
  grid changed := by simp at changed
  status changed := absurd rfl changed
  width changed := absurd rfl changed
  height changed := absurd rfl changed
  count changed := absurd rfl changed

theorem OneWriter.command {e : Event} {i : Instr} (issued : Event.Issues Config.platform e i) (s : State) :
    OneWriter e s (commandAt Config.platform i s) := by
  obtain ⟨w, h, n, pin, -, -, -⟩ := commandAt_keeps_operands Config.platform i s
  obtain ⟨pout, tout, grid⟩ := commandAt_writes_its_outputs Config.platform i s
  exact {
    pin := fun changed => absurd pin changed
    pout := fun changed => pout changed ▸ issued
    tout := fun changed => tout changed ▸ issued
    grid := fun changed => (grid changed).imp (fun | rfl => issued) (fun | rfl => issued)
    status := fun _ => ⟨encode i, issued⟩
    width := fun changed => absurd w changed
    height := fun changed => absurd h changed
    count := fun changed => absurd n changed }

theorem Effect.oneWriter {e : Event} {s t : State} (h : Effect e s t) : e = .reset ∨ OneWriter e s t := by
  cases h with
  | command i issued => exact .inr (.command issued s)
  | illegal v written => exact .inr { OneWriter.unchanged e s with status := fun _ => ⟨v, written⟩ }
  | width v written => exact .inr { OneWriter.unchanged e s with width := fun _ => ⟨v, written⟩ }
  | height v written => exact .inr { OneWriter.unchanged e s with height := fun _ => ⟨v, written⟩ }
  | count v written => exact .inr { OneWriter.unchanged e s with count := fun _ => ⟨v, written⟩ }
  | pixel i v written => exact .inr { OneWriter.unchanged e s with pin := fun _ => written }
  | reply r => exact .inr { OneWriter.unchanged e s with }
  | reset applied => exact .inl applied

/-- Settles O42: a step does nothing, or has the effect of the event it takes out of the script. -/
theorem everyStoreHasItsOneWriter : Obligations.EveryStoreHasItsOneWriter := by
  intro s t h
  rcases step_cases h with idle | ⟨e, rest, script, effect⟩
  · exact .inl idle
  · refine .inr ⟨e, rest, script, effect.oneWriter.imp_right fun w => ?_⟩
    exact ⟨w.pin, w.pout, w.tout, w.grid, w.status, w.width, w.height, w.count⟩

/-! ### What the commands read and keep -/

/-- Settles O17: neither the checks nor the bodies see PIN beyond the image. -/
theorem pixelsBeyondTheImageAreIgnored : Obligations.PixelsBeyondTheImageAreIgnored := by
  intro i s m alike
  refine ⟨commandAt Config.platform i s, exec_eq i s, ?_⟩
  rw [exec_eq]
  exact congrArg Host.Outcome.next (commandAt_rel (R := fun t t' => t' = { t with pin := m })
    (fun _ => rfl) (fun _ => rfl) (commandBody_pin i alike))

/-- Settles O7: the checks read W, H and N, an error overwrites STATUS, and so does the body. -/
theorem oldStatusIsNeverRead : Obligations.OldStatusIsNeverRead := by
  intro i s v
  rw [exec_eq, exec_eq]
  exact congrArg Host.Outcome.next (commandAt_rel (R := fun t t' => t' = t)
    (fun _ => rfl) (fun _ => rfl) (commandBody_status i s v))

/-- Settles O8: an error writes STATUS only, and a body its outputs and STATUS. -/
theorem commandsKeepTheirOperands : Obligations.CommandsKeepTheirOperands := by
  intro i s t h
  rw [exec_eq] at h
  cases h
  exact commandAt_keeps_operands Config.platform i s

/-- Settles O45: in the reset state W is 0, which fails the first check of every command. -/
theorem resetValues : Obligations.ResetValues := by
  refine ⟨⟨rfl, rfl, rfl, rfl, rfl, rfl, rfl, rfl, fun i => ⟨rfl, rfl, rfl⟩⟩, fun i => ?_⟩
  have narrow : i32 State.reset.w < 1 := by decide
  rw [exec_eq, commandAt_of_width_lt narrow, State.raise, State.finish, statusWord_invalidDimensions]

/-! ### What the host's transactions do -/

/-- Settles O38: the write is in range, and the rest is read after write. -/
theorem pinWriteStoresOneElement : Obligations.PinWriteStoresOneElement := by
  intro s i p rest inRange script
  refine ⟨{ s.advance rest with pin := s.pin.write i p }, ?_, rfl, Memory.read_write_same s.pin i p,
    fun j other => Memory.read_write_of_ne s.pin p other⟩
  rw [step_host script]
  exact writePin_of_lt inRange p (s.advance rest)

/-- Settles O36: each of the three writes is one arm of `writeRegister`. -/
theorem operandWriteStoresTheWord : Obligations.OperandWriteStoresTheWord :=
  fun _ _ _ => ⟨step_host, step_host, step_host⟩

/-- Settles O37: the register file holds the eight registers in their order. -/
theorem registerReadReturnsTheWord : Obligations.RegisterReadReturnsTheWord := by
  intro s n rest h1 h8 script
  obtain ⟨v, holds⟩ : ∃ v, [s.status, s.w, s.h, s.n, s.tcx, s.tcy, s.tcnt, s.tsize][n - 1]? = some v :=
    ⟨_, List.getElem?_eq_getElem (show n - 1 < 8 by omega)⟩
  refine ⟨v, holds, ?_⟩
  rw [step_host script]
  exact readRegister_of_register ((register_eq_getElem? (s.advance rest) h1 h8).trans holds)

/-- Settles O39: the value read is the element's where there is one. -/
theorem bufferReadsReturnTheContents : Obligations.BufferReadsReturnTheContents := by
  intro s i rest
  refine ⟨fun inRange script => ⟨(s.advance rest).pinValue i, fun u written => ?_, ?_⟩,
    fun inRange script => ⟨(s.advance rest).poutValue i, fun u written => ?_, ?_⟩,
    fun inRange script => ⟨(s.advance rest).toutValue i, fun u written => ?_, ?_⟩⟩
  · exact State.pinValue_of_read written
  · exact (step_host script).trans (if_pos inRange)
  · exact State.poutValue_of_read written
  · exact (step_host script).trans (if_pos inRange)
  · exact State.toutValue_of_read written
  · exact (step_host script).trans (if_pos inRange)

/-! ### The palette (R30) -/

/-- Settles O25: the four literals, compared in pairs. -/
theorem paletteTable : Obligations.PaletteTable :=
  ⟨⟨rfl, rfl, rfl, rfl⟩, by decide⟩

end Sys2Proof.Machine

/-! PROOFS. The statements of 20_memory.md: running a command again, the order of QUANT's writes, which accesses are
transactions, and the bus mapping. -/

namespace Sys2Proof.Machine

/-! ### Writing a memory again, and in another order (R62, R67) -/

/-- QUANT's loop writes again the words it has written: the two memories read alike. -/
theorem quantLoop_idem (pin : Nat → Word) (count : Nat) {m : Memory 32} (canonical : m.wf) :
    quantLoop pin count (quantLoop pin count m) = quantLoop pin count m := by
  have once := wf_quantLoop pin count canonical
  refine Memory.ext_of_read (wf_quantLoop pin count once) once fun j => ?_
  simp only [read_quantLoop, ← ite_or, or_self]

theorem wf_encLoop (pin : Nat → Word) (width height tcx tcy : Nat) {tout : Memory 8} (canonical : tout.wf) :
    (encLoop pin width height tcx tcy tout).2.wf :=
  (encLoop_emitted pin width height tcx tcy tout).wf canonical

/-- ENC's loop nest writes again the bytes it has written. -/
theorem encLoop_idem (pin : Nat → Word) (width height tcx tcy : Nat) {tout : Memory 8} (canonical : tout.wf) :
    (encLoop pin width height tcx tcy (encLoop pin width height tcx tcy tout).2).2 =
      (encLoop pin width height tcx tcy tout).2 := by
  have once := wf_encLoop pin width height tcx tcy canonical
  refine Memory.ext_of_read (wf_encLoop pin width height tcx tcy once) once fun k => ?_
  simp only [read_encLoop, ← ite_or, or_self]

/-- What writes at the indices of a list leave to read, when the word written depends on the index only. -/
theorem Memory.read_foldl_write {w : Nat} (f : Nat → BitVec w) (order : List Nat) (m : Memory w) (j : Nat) :
    (order.foldl (fun a i => a.write i (f i)) m).read j = if j ∈ order then some (f j) else m.read j := by
  induction order generalizing m with
  | nil => simp
  | cons i rest ih =>
    rw [List.foldl_cons, ih, Memory.read_write]
    by_cases later : j ∈ rest
    · simp [later]
    · by_cases here : j = i
      · simp [here]
      · simp [later, here]

theorem Memory.wf_foldl_write {w : Nat} (f : Nat → BitVec w) (order : List Nat) {m : Memory w} (canonical : m.wf) :
    (order.foldl (fun a i => a.write i (f i)) m).wf := by
  induction order generalizing m with
  | nil => exact canonical
  | cons i rest ih => exact ih (Memory.wf_write canonical i (f i))

/-- Settles O23: the indices written are those below `n`, in whatever order, and canonical memories that read alike are equal. -/
theorem anyPixelOrderGivesTheSameImage : Obligations.AnyPixelOrderGivesTheSameImage := by
  intro pin n m order canonical perm
  refine Memory.ext_of_read (Memory.wf_foldl_write (fun i => qpix (pin i)) order canonical)
    (wf_quantLoop pin n canonical) fun j => ?_
  have listed : j ∈ order ↔ j < n := perm.mem_iff.trans List.mem_range
  rw [Memory.read_foldl_write (fun i => qpix (pin i)), read_quantLoop, if_congr listed rfl rfl]

/-! ### Running a command again (R62) -/

/-- The checks read W, H and N, which no body writes. -/
theorem dimsError_commandBody (i : Instr) (s : State) (pmax : Nat) (u : Bool) :
    (commandBody i s).dimsError pmax u = s.dimsError pmax u := by
  cases i <;> rfl

/-- A body reads what it does not write, so that a second run writes the same outputs over the first. -/
theorem commandBody_idem (i : Instr) {s : State} (pout : s.pout.wf) (tout : s.tout.wf) :
    commandBody i (commandBody i s) = commandBody i s := by
  cases i with
  | quant =>
    exact congrArg (fun a => { s with pout := a }.finish .ok false) (quantLoop_idem s.pinValue s.pixels pout)
  | grid => rfl
  | enc =>
    exact congrArg
      (fun a => ({ s with tout := a }.setGrid (tgrid s.width s.height).1 (tgrid s.width s.height).2).finish .ok
        (unqOf s.pinValue s.width s.height))
      (encLoop_idem s.pinValue s.width s.height (tgrid s.width s.height).1 (tgrid s.width s.height).2 tout)

/-- The second run meets the same verdict of the checks: it raises the same error, or runs the body again. -/
theorem commandAt_idem (p : Platform) (i : Instr) {s : State} (pout : s.pout.wf) (tout : s.tout.wf) :
    commandAt p i (commandAt p i s) = commandAt p i s := by
  simp only [commandAt_eq_validated]
  rcases validated_cases s p.pmax (examinesN i) (commandBody i) with ⟨e, failed, -, raised⟩ | ⟨passed, ran⟩
  · have again : (s.raise e).dimsError p.pmax (examinesN i) = some e := failed
    rw [raised, State.validated, again]
    rfl
  · have again : (commandBody i s).dimsError p.pmax (examinesN i) = none := by rw [dimsError_commandBody, passed]
    rw [ran, State.validated, again]
    exact commandBody_idem i pout tout

/-- Settles O19: a command is a function of the state that is idempotent on canonical memories. -/
theorem commandsAreIdempotent : Obligations.CommandsAreIdempotent := by
  intro i s t pout tout h
  rw [exec_eq] at h
  cases h
  rw [exec_eq, commandAt_idem Config.platform i pout tout]

/-! ### A write of CMD (R60, R81) -/

theorem issueCommand_of_decode {v : Word} {i : Instr} (decoded : decode v = .ok i) (run : Instr → State → Result) (s : State) :
    issueCommand run v s = run i s := by
  rw [issueCommand, decoded]

/-- Settles O4: the event at the head of the script is the write of CMD, and its word decodes. -/
theorem stepRunsDecodedCommand : Obligations.StepRunsDecodedCommand := by
  intro s v i rest script decoded
  rw [step_host script]
  exact issueCommand_of_decode decoded exec (s.advance rest)

/-! ### Which accesses answer a next state (R52, R189) -/

theorem exists_next_ite {c : Prop} [Decidable c] {s : State} {r : Refusal} :
    (∃ s', (if c then (.next s : Result) else .refused r) = .next s') ↔ c := by
  by_cases h : c <;> simp [h]

theorem register_isSome_iff (s : State) (n : Nat) : (∃ v, s.register n = some v) ↔ 1 ≤ n ∧ n ≤ 8 := by
  constructor
  · rintro ⟨v, h⟩
    unfold State.register at h
    split at h
    case h_9 => cases h
    all_goals omega
  · rintro ⟨h1, h8⟩
    rw [register_eq_getElem? s h1 h8]
    exact ⟨_, List.getElem?_eq_getElem (show n - 1 < 8 by omega)⟩

/-- Every word answers a write of CMD, for a command always answers (R185). -/
theorem issueCommand_answers (v : Word) (s : State) : ∃ s', issueCommand exec v s = .next s' := by
  rcases issueCommand_cases exec v s with ⟨i, -, ran⟩ | ⟨-, -, raised⟩
  · exact ⟨_, ran.trans (exec_eq i s)⟩
  · exact ⟨_, raised⟩

theorem writeRegister_answers_iff (n : Nat) (v : Word) (s : State) :
    (∃ s', writeRegister exec n v s = .next s') ↔ n = 0 ∨ n = 2 ∨ n = 3 ∨ n = 4 := by
  constructor
  · rintro ⟨s', h⟩
    exact (writeRegister_next h).imp And.left (Or.imp And.left (Or.imp And.left And.left))
  · rintro (rfl | rfl | rfl | rfl)
    · exact issueCommand_answers v s
    · exact ⟨_, rfl⟩
    · exact ⟨_, rfl⟩
    · exact ⟨_, rfl⟩

theorem readRegister_answers_iff (n : Nat) (s : State) : (∃ s', readRegister n s = .next s') ↔ 1 ≤ n ∧ n ≤ 8 := by
  rw [← register_isSome_iff s n]
  constructor
  · rintro ⟨s', h⟩
    obtain ⟨v, holds, -⟩ := readRegister_next h
    exact ⟨v, holds⟩
  · rintro ⟨v, holds⟩
    exact ⟨_, readRegister_of_register holds⟩

/-- The host's writes to POUT and TOUT are refused at every index (U8). -/
theorem refused_ite_ne_next {c : Prop} [Decidable c] {r r' : Refusal} {s : State} :
    (if c then (.refused r : Result) else .refused r') ≠ .next s := by
  by_cases h : c <;> simp [h]

/-- A host access answers a next state exactly when it is a transaction of R52 with its operands in range. -/
theorem performTransaction_answers_iff (p : Platform) (t : Transaction) (s : State) :
    (∃ s', performTransaction p exec t s = .next s') ↔ t.wf p.pmax = true := by
  cases t with
  | regWrite n v => exact (writeRegister_answers_iff n v s).trans decide_eq_true_iff.symm
  | regRead n => exact (readRegister_answers_iff n s).trans decide_eq_true_iff.symm
  | pinWrite | pinRead | poutRead | toutRead => exact exists_next_ite.trans decide_eq_true_iff.symm
  | poutWrite | toutWrite => exact iff_of_false (fun ⟨_, h⟩ => refused_ite_ne_next h) Bool.false_ne_true

/-- Settles O40: the step at a host transaction performs it. -/
theorem interfaceIsExactlyItsTransactions : Obligations.InterfaceIsExactlyItsTransactions := by
  intro s t rest script
  rw [step_host script]
  exact (performTransaction_answers_iff Config.platform t (s.advance rest)).symm

/-! ### What a bus access names (R53, R59) -/

theorem inWindow_iff {addr base size : Nat} : inWindow addr base size = true ↔ base ≤ addr ∧ addr < base + size :=
  decide_eq_true_iff

/-- An access to a window of `count` 32-bit elements that names a transaction is a whole aligned access at an element, and the
transaction is that element's. -/
theorem wordAccess_names {a : BusAccess} {base count : Nat} {read : Nat → Transaction} {write : Nat → Word → Transaction}
    {t : Transaction} (window : inWindow a.addr base (4 * count) = true)
    (h : wordAccess a (a.addr - base) read write = .ok t) :
    ∃ i < count, a.addr % 4 = 0 ∧
      (a = ⟨base + 4 * i, 4, none⟩ ∧ t = read i ∨ ∃ v, a = ⟨base + 4 * i, 4, some v⟩ ∧ t = write i v) := by
  obtain ⟨addr, size, wdata⟩ := a
  obtain ⟨rfl, aligned, offset, named⟩ := wordAccess_ok h
  obtain ⟨lower, upper⟩ := inWindow_iff.1 window
  dsimp only at offset lower upper
  have element : base + 4 * ((addr - base) / 4) = addr := by omega
  refine ⟨(addr - base) / 4, by omega, aligned, ?_⟩
  rw [element]
  rcases named with ⟨rfl, rfl⟩ | ⟨v, rfl, rfl⟩
  · exact .inl ⟨rfl, rfl⟩
  · exact .inr ⟨v, rfl, rfl⟩

/-- An access to the window of TOUT that names a transaction is of one byte, and the transaction is that byte's. -/
theorem byteAccess_names {a : BusAccess} {base count : Nat} {t : Transaction} (window : inWindow a.addr base count = true)
    (h : byteAccess a (a.addr - base) = .ok t) :
    ∃ k < count, a = ⟨base + k, 1, none⟩ ∧ t = .toutRead k ∨
      ∃ v : Word, a = ⟨base + k, 1, some v⟩ ∧ t = .toutWrite k (v.extractLsb' 0 8) := by
  obtain ⟨addr, size, wdata⟩ := a
  obtain ⟨rfl, named⟩ := byteAccess_ok h
  obtain ⟨lower, upper⟩ := inWindow_iff.1 window
  dsimp only at lower upper
  have element : base + (addr - base) = addr := Nat.add_sub_of_le lower
  refine ⟨addr - base, by omega, ?_⟩
  rw [element]
  rcases named with ⟨rfl, rfl⟩ | ⟨v, rfl, rfl⟩
  · exact .inl ⟨rfl, rfl⟩
  · exact .inr ⟨v, rfl, rfl⟩

/-- What a bus access names stands where R53 puts it, with the size and the alignment of R59: each window names its own
transactions, and an address in none of them names nothing. -/
theorem busDecode_names {p : Platform} {a : BusAccess} {t : Transaction} (h : busDecode p a = .ok t) :
    BusAccess.Names p a t := by
  unfold busDecode at h
  split at h
  next window =>
    obtain ⟨n, inRange, aligned, ⟨stands, rfl⟩ | ⟨v, stands, rfl⟩⟩ := wordAccess_names window h <;>
      exact ⟨inRange, stands, aligned⟩
  split at h
  next window =>
    obtain ⟨i, inRange, aligned, ⟨stands, rfl⟩ | ⟨v, stands, rfl⟩⟩ := wordAccess_names window h <;>
      exact ⟨inRange, stands, aligned⟩
  split at h
  next window =>
    obtain ⟨i, inRange, aligned, ⟨stands, rfl⟩ | ⟨v, stands, rfl⟩⟩ := wordAccess_names window h <;>
      exact ⟨inRange, stands, aligned⟩
  split at h
  next window =>
    obtain ⟨k, inRange, ⟨stands, rfl⟩ | ⟨v, stands, rfl⟩⟩ := byteAccess_names window h
    · exact ⟨inRange, stands⟩
    · exact ⟨inRange, v, stands, rfl⟩
  cases h

/-- A step with an event to perform, on any platform. -/
theorem stepWith_cons {s : State} {e : Event} {rest : List Event} (script : s.script = e :: rest) (p : Platform)
    (run : Instr → State → Result) : stepWith p run s = performEvent p run e (s.advance rest) := by
  rw [stepWith, script]

theorem performEvent_bus_ok {p : Platform} {a : BusAccess} {t : Transaction} (h : busDecode p a = .ok t)
    (run : Instr → State → Result) (s : State) : performEvent p run (.bus a) s = performTransaction p run t s := by
  rw [performEvent, h]

theorem performEvent_bus_error {p : Platform} {a : BusAccess} {r : Refusal} (h : busDecode p a = .error r)
    (run : Instr → State → Result) (s : State) : performEvent p run (.bus a) s = .refused r := by
  rw [performEvent, h]

/-- Settles O44: the event is performed as what the platform's map makes of it. -/
theorem busAccessIsItsTransaction : Obligations.BusAccessIsItsTransaction := by
  intro p run s a rest script
  refine ⟨fun t decoded => ⟨?_, busDecode_names decoded⟩, fun r decoded => ?_⟩
  · calc stepWith p run s
        = performEvent p run (.bus a) (s.advance rest) := stepWith_cons script p run
      _ = performTransaction p run t (s.advance rest) := performEvent_bus_ok decoded run _
      _ = stepWith p run { s with script := .host t :: rest } :=
        (stepWith_cons (s := { s with script := .host t :: rest }) rfl p run).symm
  · rw [stepWith_cons script, performEvent_bus_error decoded]

/-- R59, whichever transaction is named: a whole aligned access inside a window of 32-bit elements, or one byte inside the
window of TOUT. -/
theorem BusAccess.Names.rule {p : Platform} {a : BusAccess} {t : Transaction} (h : BusAccess.Names p a t) :
    (a.addr % 4 = 0 ∧ a.size = 4 ∧
      (p.regBase ≤ a.addr ∧ a.addr < p.regBase + 36 ∨ p.pinBase ≤ a.addr ∧ a.addr < p.pinBase + 4 * p.pmax ∨
        p.poutBase ≤ a.addr ∧ a.addr < p.poutBase + 4 * p.pmax)) ∨
    (a.size = 1 ∧ p.toutBase ≤ a.addr ∧ a.addr < p.toutBase + p.tmax) := by
  cases t with
  | regRead | regWrite =>
    obtain ⟨(inRange : _ < 9), rfl, aligned⟩ := h
    exact .inl ⟨aligned, rfl, by dsimp only; omega⟩
  | pinRead | pinWrite | poutRead | poutWrite =>
    obtain ⟨inRange, rfl, aligned⟩ := h
    exact .inl ⟨aligned, rfl, by dsimp only; omega⟩
  | toutRead =>
    obtain ⟨inRange, rfl⟩ := h
    exact .inr ⟨rfl, by dsimp only; omega⟩
  | toutWrite =>
    obtain ⟨inRange, -, rfl, -⟩ := h
    exact .inr ⟨rfl, by dsimp only; omega⟩

/-- Settles O53: what names a transaction keeps the rule of the window it is in, and it is in one kind of window only. -/
theorem busAccessOutsideTheRuleNamesNothing : Obligations.BusAccessOutsideTheRuleNamesNothing := by
  rintro p a ⟨-, -, regTout, -, pinTout, poutTout⟩
  simp only [apart, config_nreg] at regTout pinTout poutTout
  refine ⟨fun inWords broken t named => ?_, fun inTout broken t named => ?_⟩
  · rcases (busDecode_names named).rule with ⟨aligned, size4, -⟩ | ⟨-, inTout⟩
    · exact broken.elim (absurd aligned) (absurd size4)
    · omega
  · rcases (busDecode_names named).rule with ⟨-, -, inWords⟩ | ⟨size1, -⟩
    · omega
    · exact absurd size1 broken

/-! ### Where each element stands on the bus (R53) -/

/-- An address in one of two windows that do not overlap is not in the other. -/
theorem not_inWindow_of_apart {addr base size base' size' : Nat} (disjoint : apart base size base' size')
    (h : inWindow addr base' size' = true) : ¬ inWindow addr base size = true := by
  rw [inWindow_iff] at h ⊢
  omega

theorem inWindow_add {base size off : Nat} (h : off < size) : inWindow (base + off) base size = true :=
  inWindow_iff.2 ⟨Nat.le_add_right base off, Nat.add_lt_add_left h base⟩

section Windows

variable {p : Platform} {a : BusAccess}

theorem busDecode_regWindow (h : inWindow a.addr p.regBase (4 * Config.nreg) = true) :
    busDecode p a = wordAccess a (a.addr - p.regBase) .regRead .regWrite :=
  if_pos h

variable (disjoint : WindowsApart p)
include disjoint

theorem busDecode_pinWindow (h : inWindow a.addr p.pinBase (4 * p.pmax) = true) :
    busDecode p a = wordAccess a (a.addr - p.pinBase) .pinRead .pinWrite := by
  rw [busDecode, if_neg (not_inWindow_of_apart disjoint.reg_pin h), if_pos h]

theorem busDecode_poutWindow (h : inWindow a.addr p.poutBase (4 * p.pmax) = true) :
    busDecode p a = wordAccess a (a.addr - p.poutBase) .poutRead .poutWrite := by
  rw [busDecode, if_neg (not_inWindow_of_apart disjoint.reg_pout h), if_neg (not_inWindow_of_apart disjoint.pin_pout h),
    if_pos h]

theorem busDecode_toutWindow (h : inWindow a.addr p.toutBase p.tmax = true) :
    busDecode p a = byteAccess a (a.addr - p.toutBase) := by
  rw [busDecode, if_neg (not_inWindow_of_apart disjoint.reg_tout h), if_neg (not_inWindow_of_apart disjoint.pin_tout h),
    if_neg (not_inWindow_of_apart disjoint.pout_tout h), if_pos h]

end Windows

/-- From an aligned base, a whole access at the offset of an element is the read or the write of this element. -/
theorem wordAccess_element {base : Nat} (aligned : base % 4 = 0) (i : Nat) (read : Nat → Transaction)
    (write : Nat → Word → Transaction) :
    wordAccess ⟨base + 4 * i, 4, none⟩ (base + 4 * i - base) read write = .ok (read i) ∧
    ∀ v, wordAccess ⟨base + 4 * i, 4, some v⟩ (base + 4 * i - base) read write = .ok (write i v) := by
  have offset : base + 4 * i - base = 4 * i := Nat.add_sub_cancel_left ..
  have addrAligned : (base + 4 * i) % 4 = 0 := by omega
  have element : 4 * i / 4 = i := Nat.mul_div_cancel_left i (by decide)
  simp [wordAccess, offset, addrAligned, element]

theorem byteAccess_element (base k : Nat) : byteAccess ⟨base + k, 1, none⟩ (base + k - base) = .ok (.toutRead k) := by
  simp [byteAccess]

/-- Settles O43: the element's address is in the window of its space only, and there at the element's offset. -/
theorem busOffsetsNameTheElements : Obligations.BusOffsetsNameTheElements := by
  intro p disjoint
  refine ⟨fun aligned n v inRange => ?_, fun aligned i v inRange => ?_, fun aligned i inRange => ?_, fun k inRange => ?_⟩
  · have window : inWindow (p.regBase + 4 * n) p.regBase (4 * Config.nreg) = true :=
      inWindow_add (Nat.mul_lt_mul_of_pos_left inRange (by decide))
    obtain ⟨read, write⟩ := wordAccess_element aligned n .regRead .regWrite
    exact ⟨(busDecode_regWindow window).trans read, (busDecode_regWindow window).trans (write v)⟩
  · have window : inWindow (p.pinBase + 4 * i) p.pinBase (4 * p.pmax) = true :=
      inWindow_add (Nat.mul_lt_mul_of_pos_left inRange (by decide))
    obtain ⟨read, write⟩ := wordAccess_element aligned i .pinRead .pinWrite
    exact ⟨(busDecode_pinWindow disjoint window).trans read, (busDecode_pinWindow disjoint window).trans (write v)⟩
  · have window : inWindow (p.poutBase + 4 * i) p.poutBase (4 * p.pmax) = true :=
      inWindow_add (Nat.mul_lt_mul_of_pos_left inRange (by decide))
    obtain ⟨read, -⟩ := wordAccess_element aligned i .poutRead .poutWrite
    exact (busDecode_poutWindow disjoint window).trans read
  · exact (busDecode_toutWindow disjoint (inWindow_add inRange)).trans (byteAccess_element p.toutBase k)

end Sys2Proof.Machine

/-! PROOFS. The statements of 30_encoding.md: the command words, a reserved word, reading the tile stream back, and one round
of `copy`. -/

namespace Sys2Proof.Machine

/-! ### The command words (R80, R81, R82, R84) -/

theorem decode_encode (i : Instr) : decode (encode i) = .ok i := by
  cases i <;> rfl

/-- A word is reserved exactly when it is no command's word (R84). -/
theorem decode_error_iff (v : Word) : (∃ e, decode v = .error e) ↔ ∀ i, v ≠ encode i := by
  constructor
  · rintro ⟨e, rejected⟩ i rfl
    rw [decode_encode] at rejected
    cases rejected
  · intro reserved
    cases decoded : decode v with
    | ok i => exact absurd (eq_encode_of_decode decoded) (reserved i)
    | error e => exact ⟨e, rfl⟩

/-- Settles O1: the three words are those of `encode`. -/
theorem opcodeWordsDecode : Obligations.OpcodeWordsDecode :=
  ⟨decode_encode .quant, decode_encode .grid, decode_encode .enc⟩

/-- Settles O2: one direction is a case per command, the other the inversion of the decoder. -/
theorem decodeInvertsEncode : Obligations.DecodeInvertsEncode :=
  fun i => ⟨decode_encode i, fun _ => eq_encode_of_decode⟩

/-! ### A reserved word (R84, R180, R185) -/

theorem issueCommand_of_error {v : Word} {e : DecodeError} (rejected : decode v = .error e) (run : Instr → State → Result)
    (s : State) : issueCommand run v s = .next (s.raise .illegalCmd) := by
  rw [issueCommand, rejected]

theorem State.raise_illegalCmd (s : State) : s.raise .illegalCmd = { s with status := 3#32 } := by
  rw [State.raise, State.finish, statusWord_illegalCmd]

/-- Settles O3: the word is no command's, so that the write of CMD raises ILLEGAL_CMD. -/
theorem reservedWordIsIllegal : Obligations.ReservedWordIsIllegal := by
  intro v ne1 ne2 ne3
  have reserved : ∀ i, v ≠ encode i
    | .quant => ne1
    | .grid => ne2
    | .enc => ne3
  obtain ⟨e, rejected⟩ := (decode_error_iff v).2 reserved
  refine ⟨⟨e, rejected⟩, fun s rest script => ?_⟩
  calc step s
      = issueCommand exec v (s.advance rest) := step_host script
    _ = .next ((s.advance rest).raise .illegalCmd) := issueCommand_of_error rejected exec _
    _ = .next { s.advance rest with status := 3#32 } := by rw [State.raise_illegalCmd]

/-! ### The bits of a packed row (R136) -/

/-- After the first `n` columns, bit 7 − j of each plane is the index bit of column j, and 0 where column j is still to come. -/
theorem loop_packCol_bits (index : Nat → Fin 4) {n j : Nat} (hn : n ≤ 8) (hj : j < 8) :
    (loop n (fun col acc => packCol (index col) col acc) (0#8, 0#8)).1.getLsbD (7 - j) =
      (decide (j < n) && (index j).val.testBit 0) ∧
    (loop n (fun col acc => packCol (index col) col acc) (0#8, 0#8)).2.getLsbD (7 - j) =
      (decide (j < n) && (index j).val.testBit 1) := by
  induction n with
  | zero => simp
  | succ n ih =>
    obtain ⟨lo, hi⟩ := ih (by omega)
    obtain ⟨packedLo, packedHi⟩ := packCol_bits (index n) (show n < 8 by omega) hj _
    rw [loop_succ, packedLo, packedHi, lo, hi]
    rcases Nat.lt_trichotomy j n with before | rfl | after
    · simp [before, before.ne, Nat.lt_succ_of_lt before]
    · simp
    · simp [after.ne', after.not_gt, show ¬ j < n + 1 by omega]

/-- Bit 7 − col of each plane of a tile row is the bit of the index at that column. -/
theorem packRow_bits (pin : Nat → Word) (width height tx ty row : Nat) {col : Nat} (hcol : col < 8) :
    (packRow pin width height tx ty row).1.getLsbD (7 - col) =
      (idxAt pin width height (8 * tx + col) (8 * ty + row)).val.testBit 0 ∧
    (packRow pin width height tx ty row).2.getLsbD (7 - col) =
      (idxAt pin width height (8 * tx + col) (8 * ty + row)).val.testBit 1 := by
  have bits := loop_packCol_bits (fun c => idxAt pin width height (8 * tx + c) (8 * ty + row)) le_rfl hcol
  rw [decide_eq_true hcol, Bool.true_and, Bool.true_and] at bits
  exact bits

theorem idxAt_of_inBounds (pin : Nat → Word) {width height x y : Nat} (hx : x < width) (hy : y < height) :
    idxAt pin width height x y = cidx (pixColor (pin (y * width + x))) :=
  if_pos ⟨hx, hy⟩

/-! ### The stream in TOUT after ENC (R90, R138, R143) -/

/-- The two bytes of row `r` of tile (tx, ty) stand at the index of R90. -/
theorem read_encLoop_at (pin : Nat → Word) (width height : Nat) {tcx tcy tx ty r : Nat} (tout : Memory 8)
    (hx : tx < tcx) (hy : ty < tcy) (hr : r < 8) :
    (encLoop pin width height tcx tcy tout).2.read (16 * (ty * tcx + tx) + 2 * r) =
      some (packRow pin width height tx ty r).1 ∧
    (encLoop pin width height tcx tcy tout).2.read (16 * (ty * tcx + tx) + 2 * r + 1) =
      some (packRow pin width height tx ty r).2 := by
  have tile : ty * tcx + tx < tcy * tcx := Nat.mul_comm tcx tcy ▸ pixelIndex_lt hx hy
  obtain ⟨lo, hi⟩ := streamByte_at pin width height (ty := ty) hx hr
  rw [read_encLoop, read_encLoop, if_pos (by omega), if_pos (by omega), lo, hi]
  exact ⟨rfl, rfl⟩

/-- ENC on dimensions that pass the checks. -/
theorem exec_enc_of_ready {s : State} (ready : s.ImageReady Config.platform.pmax) : exec .enc s = .next s.encBody := by
  rw [exec_enc, encAt_ready ready]

theorem State.encBody_tout (s : State) :
    s.encBody.tout =
      (encLoop s.pinValue s.width s.height (tgrid s.width s.height).1 (tgrid s.width s.height).2 s.tout).2 := rfl

/-- TCX after ENC is the grid width as a number (R139). -/
theorem encBody_tcx_toNat {s : State} (ready : s.GridReady Config.platform.pmax) :
    s.encBody.tcx.toNat = (tgrid s.width s.height).1 := by
  obtain ⟨⟨tcx, -⟩, -⟩ := GridReady.registers ready rfl rfl
  exact tcx

/-- A row of a tile of the grid, as the host reads it after ENC. -/
theorem encBody_toutValue (s : State) {tx ty r : Nat} (hx : tx < (tgrid s.width s.height).1)
    (hy : ty < (tgrid s.width s.height).2) (hr : r < 8) :
    s.encBody.toutValue (16 * (ty * (tgrid s.width s.height).1 + tx) + 2 * r) =
      (packRow s.pinValue s.width s.height tx ty r).1 ∧
    s.encBody.toutValue (16 * (ty * (tgrid s.width s.height).1 + tx) + 2 * r + 1) =
      (packRow s.pinValue s.width s.height tx ty r).2 := by
  obtain ⟨lo, hi⟩ := read_encLoop_at s.pinValue s.width s.height s.tout hx hy hr
  rw [← State.encBody_tout] at lo hi
  exact ⟨State.toutValue_of_read lo, State.toutValue_of_read hi⟩

/-! ### Reading the stream back (R92) -/

/-- The bit that `readBack` takes from a byte. -/
theorem toNat_ushiftRight_mod_two (b : Byte) (k : Nat) : (b >>> k).toNat % 2 = (b.getLsbD k).toNat := by
  rw [BitVec.toNat_ushiftRight, Nat.shiftRight_eq_div_pow, BitVec.getLsbD, Nat.toNat_testBit]

/-- The two bits of a palette index are the whole of it. -/
theorem testBit_one_testBit_zero : ∀ i : Fin 4, 2 * (i.val.testBit 1).toNat + (i.val.testBit 0).toNat = i.val := by
  decide

/-- Where the two bytes of a pixel's tile row are those that PACKROW gives, R92 gives the index of the position. -/
theorem readBack_of_packRow {tout : Nat → Byte} {pin : Nat → Word} {width height tcx x y : Nat}
    (lo : tout (16 * (y / 8 * tcx + x / 8) + 2 * (y % 8)) = (packRow pin width height (x / 8) (y / 8) (y % 8)).1)
    (hi : tout (16 * (y / 8 * tcx + x / 8) + 2 * (y % 8) + 1) = (packRow pin width height (x / 8) (y / 8) (y % 8)).2) :
    readBack tout tcx x y = (idxAt pin width height x y).val := by
  obtain ⟨bit0, bit1⟩ := packRow_bits pin width height (x / 8) (y / 8) (y % 8) (Nat.mod_lt x (show 0 < 8 by decide))
  rw [Nat.div_add_mod, Nat.div_add_mod] at bit0 bit1
  simp only [readBack, config_tileb, config_tile, config_rowb, lo, hi, toNat_ushiftRight_mod_two, bit0, bit1,
    testBit_one_testBit_zero]

/-- An in-bounds position is in a tile of the grid (R132). -/
theorem tile_lt_tgrid {width height x y : Nat} (hx : x < width) (hy : y < height) :
    x / 8 < (tgrid width height).1 ∧ y / 8 < (tgrid width height).2 := by
  simp only [tgrid, config_tile]
  omega

/-- Settles O13: the pixel's two bytes stand where R92 looks for them, and their bits at its column are its index. -/
theorem readBackRecoversEveryPixel : Obligations.ReadBackRecoversEveryPixel := by
  intro s ready
  refine ⟨s.encBody, exec_enc_of_ready ready, fun x y hx hy => ?_⟩
  obtain ⟨column, line⟩ := tile_lt_tgrid hx hy
  obtain ⟨lo, hi⟩ := encBody_toutValue s column line (Nat.mod_lt y (show 0 < 8 by decide))
  rw [encBody_tcx_toNat ready.1, readBack_of_packRow lo hi, idxAt_of_inBounds s.pinValue hx hy]

/-! ### One round of `copy` (R95, R215) -/

theorem writePin_of_le {p : Platform} {i : Nat} (h : p.pmax ≤ i) (v : Word) (s : State) :
    writePin p i v s = .refused (.noSuchElement .pin i) :=
  if_neg h.not_gt

/-- With a word as the last reply, the event is the PIN write of that word. -/
theorem step_pinWriteLast_word {s : State} {i : Nat} {rest : List Event} {v : Word}
    (script : s.script = .pinWriteLast i :: rest) (last : s.replies.getLast? = some (.word v)) :
    step s = writePin Config.platform i v (s.advance rest) := by
  rw [step_cons script, performEvent, State.advance_replies, last]

/-- In range, it stores that word and takes the event out of the script. -/
theorem step_pinWriteLast_next {s : State} {i : Nat} {rest : List Event} {v : Word}
    (script : s.script = .pinWriteLast i :: rest) (last : s.replies.getLast? = some (.word v))
    (inRange : i < Config.platform.pmax) :
    step s = .next { s with pin := s.pin.write i v, script := rest, serial := s.serial + 1 } :=
  (step_pinWriteLast_word script last).trans (writePin_of_lt inRange v (s.advance rest))

/-- Without a word, the host has nothing to write: there is no reply, or the last one is a byte. -/
theorem step_pinWriteLast_noWord {s : State} {i : Nat} {rest : List Event} (script : s.script = .pinWriteLast i :: rest)
    (noWord : ∀ v, s.replies.getLast? ≠ some (.word v)) : step s = .refused .noWordToWrite := by
  rw [step_cons script, performEvent, State.advance_replies]
  cases last : s.replies.getLast? with
  | none => rfl
  | some r =>
    cases r with
    | word v => exact absurd last (noWord v)
    | byte b => rfl

/-- Settles O52: the event writes the last reply, and after the read of POUT this is the word read. -/
theorem copyWritesTheWordRead : Obligations.CopyWritesTheWordRead := by
  intro s i rest
  refine ⟨fun v inRange script last => ?_, fun v outside script last => ?_, fun noWord script => ?_,
    fun inRange script => ?_⟩
  · exact ⟨_, step_pinWriteLast_next script last inRange, rfl, Memory.read_write_same s.pin i v,
      fun j other => Memory.read_write_of_ne s.pin v other⟩
  · rw [step_pinWriteLast_word script last, writePin_of_le outside]
  · exact step_pinWriteLast_noWord script noWord
  · obtain ⟨-, poutRead, -⟩ := bufferReadsReturnTheContents s i (.pinWriteLast i :: rest)
    obtain ⟨v, contents, readStep⟩ := poutRead inRange script
    have writeStep := step_pinWriteLast_next (v := v)
      (s := { s with replies := s.replies ++ [.word v], script := .pinWriteLast i :: rest, serial := s.serial + 1 })
      rfl List.getLast?_concat inRange
    exact ⟨v, _, _, contents, readStep, writeStep, rfl, Memory.read_write_same s.pin i v,
      fun j other => Memory.read_write_of_ne s.pin v other⟩

end Sys2Proof.Machine

/-! PROOFS. The statements of 40_quantizer.md: the squared distance, the nearest entry and its ties, QPIX and QUANT. -/

namespace Sys2Proof.Machine

/-! ### The squared distance and its ranges (R110, R116) -/

theorem color_eq_of_toNat {c d : Color} (r : c.r.toNat = d.r.toNat) (g : c.g.toNat = d.g.toNat)
    (b : c.b.toNat = d.b.toNat) : c = d := by
  cases c; cases d
  rw [Color.mk.injEq]
  exact ⟨BitVec.eq_of_toNat_eq r, BitVec.eq_of_toNat_eq g, BitVec.eq_of_toNat_eq b⟩

theorem dist2_comm (c p : Color) : dist2 c p = dist2 p c := by
  unfold dist2; ring

theorem dist2_nonneg (c p : Color) : 0 ≤ dist2 c p := by
  unfold dist2; positivity

@[simp] theorem dist2_self (c : Color) : dist2 c c = 0 := by
  simp [dist2]

/-- A sum of squares is 0 only where every channel difference is 0. -/
theorem dist2_eq_zero_iff (c p : Color) : dist2 c p = 0 ↔ c = p := by
  constructor
  · intro zero
    unfold dist2 at zero
    rw [add_eq_zero_iff_of_nonneg (by positivity) (by positivity),
      add_eq_zero_iff_of_nonneg (by positivity) (by positivity)] at zero
    simp only [pow_eq_zero_iff two_ne_zero, sub_eq_zero, Nat.cast_inj] at zero
    obtain ⟨⟨red, green⟩, blue⟩ := zero
    exact color_eq_of_toNat red green blue
  · rintro rfl
    exact dist2_self c

/-- How far from a channel value another one can be: at 0 or at 255. -/
def reach (q : Byte) : Int := max (q.toNat : Int) (255 - q.toNat)

theorem sq_sub_le_reach (x q : Byte) : ((x.toNat : Int) - q.toNat) ^ 2 ≤ reach q ^ 2 := by
  have := x.isLt
  exact sq_le_sq' (by unfold reach; omega) (by unfold reach; omega)

theorem reach_sq_le (q : Byte) : reach q ^ 2 ≤ 65025 := by
  have := q.isLt
  calc reach q ^ 2 ≤ 255 ^ 2 := sq_le_sq' (by unfold reach; omega) (by unfold reach; omega)
    _ = 65025 := by norm_num

/-- No colour is farther from `p` than the corner of the colour cube opposite to it. -/
theorem dist2_le_reach (c p : Color) : dist2 c p ≤ reach p.r ^ 2 + reach p.g ^ 2 + reach p.b ^ 2 :=
  add_le_add (add_le_add (sq_sub_le_reach c.r p.r) (sq_sub_le_reach c.g p.g)) (sq_sub_le_reach c.b p.b)

/-- The four corners' distances; the largest is that of white from entry 3. -/
theorem pal_reach_le : ∀ k, reach (pal k).r ^ 2 + reach (pal k).g ^ 2 + reach (pal k).b ^ 2 ≤ 154801 := by
  decide

/-- Settles O26: a sum of three squares, each bounded by the reach of its channel. -/
theorem squaredDistanceLaws : Obligations.SquaredDistanceLaws := by
  refine ⟨fun c p => ⟨dist2_comm c p, dist2_eq_zero_iff c p, dist2_nonneg c p, ?_⟩,
    fun c k => (dist2_le_reach c (pal k)).trans (pal_reach_le k)⟩
  calc dist2 c p
      ≤ reach p.r ^ 2 + reach p.g ^ 2 + reach p.b ^ 2 := dist2_le_reach c p
    _ ≤ 65025 + 65025 + 65025 := add_le_add (add_le_add (reach_sq_le p.r) (reach_sq_le p.g)) (reach_sq_le p.b)
    _ = 195075 := by norm_num

/-! ### The nearest entry (R112, R113) -/

/-- `k` is the lowest-numbered entry at which `f` is least. -/
def LeastMinimizer {α : Type} [LinearOrder α] (f : Fin 4 → α) (k : Fin 4) : Prop :=
  (∀ j, f k ≤ f j) ∧ ∀ j < k, f k < f j

theorem LeastMinimizer.unique {α : Type} [LinearOrder α] {f : Fin 4 → α} {k l : Fin 4} (hk : LeastMinimizer f k)
    (hl : LeastMinimizer f l) : k = l := by
  rcases lt_trichotomy k l with below | same | above
  · exact absurd (hl.2 k below) (hk.1 l).not_gt
  · exact same
  · exact absurd (hk.2 l above) (hl.1 k).not_gt

/-- Only the order of the values counts. -/
theorem leastMinimizer_congr {α β : Type} [LinearOrder α] [LinearOrder β] {f : Fin 4 → α} {g : Fin 4 → β}
    (order : ∀ i j, f i ≤ f j ↔ g i ≤ g j) (k : Fin 4) : LeastMinimizer f k ↔ LeastMinimizer g k :=
  and_congr (forall_congr' fun j => order k j)
    (forall_congr' fun j => imp_congr_right fun _ => lt_iff_lt_of_le_iff_le (order j k))

/-- What the scan answers on entries in rising order, from the lowest of them as the best so far. -/
theorem nearestScan_spec {c : Color} {todo : List (Fin 4)} {best k : Fin 4} (rising : (best :: todo).Pairwise (· < ·))
    (answer : nearestScan c todo best (dist2 c (pal best)) = k) :
    (∀ j ∈ best :: todo, dist2 c (pal k) ≤ dist2 c (pal j)) ∧
      ∀ j ∈ best :: todo, j < k → dist2 c (pal k) < dist2 c (pal j) := by
  induction todo generalizing best with
  | nil =>
    obtain rfl : best = k := answer
    simp
  | cons next rest ih =>
    obtain ⟨bestLt, risingRest⟩ := List.pairwise_cons.1 rising
    rw [nearestScan] at answer
    split at answer
    next nearer =>
      obtain ⟨least, lowest⟩ := ih risingRest answer
      have improved := (least next (List.mem_cons_self ..)).trans_lt nearer
      simp only [List.forall_mem_cons (a := best)]
      exact ⟨⟨improved.le, least⟩, fun _ => improved, lowest⟩
    next noNearer =>
      obtain ⟨least, lowest⟩ := ih (rising.sublist (by simp)) answer
      simp only [List.forall_mem_cons] at least lowest ⊢
      obtain ⟨leastBest, leastRest⟩ := least
      obtain ⟨lowestBest, lowestRest⟩ := lowest
      have kept := not_lt.1 noNearer
      refine ⟨⟨leastBest, leastBest.trans kept, leastRest⟩, lowestBest, fun before => ?_, lowestRest⟩
      exact (lowestBest ((bestLt next (List.mem_cons_self ..)).trans before)).trans_le kept

theorem nearest_leastMinimizer (c : Color) : LeastMinimizer (fun j => dist2 c (pal j)) (nearest c) := by
  have rising : ([0, 1, 2, 3] : List (Fin 4)).Pairwise (· < ·) := by decide
  have listed : ∀ j : Fin 4, j ∈ ([0, 1, 2, 3] : List (Fin 4)) := by decide
  obtain ⟨least, lowest⟩ := nearestScan_spec rising (show _ = nearest c from rfl)
  exact ⟨fun j => least j (listed j), fun j => lowest j (listed j)⟩

theorem nearest_eq_iff (c : Color) (k : Fin 4) : nearest c = k ↔ LeastMinimizer (fun j => dist2 c (pal j)) k :=
  ⟨fun e => e ▸ nearest_leastMinimizer c, (nearest_leastMinimizer c).unique⟩

/-- Settles O27, by induction over the scan and uniqueness of the lowest-numbered minimum. -/
theorem nearestIsLeastMinimum : Obligations.NearestIsLeastMinimum :=
  nearest_eq_iff

/-! ### The document's square root (R111) -/

theorem dist2_cast (c p : Color) :
    (dist2 c p : ℝ) =
      ((c.r.toNat : ℝ) - p.r.toNat) ^ 2 + ((c.g.toNat : ℝ) - p.g.toNat) ^ 2 + ((c.b.toNat : ℝ) - p.b.toNat) ^ 2 := by
  simp [dist2]

/-- The square root orders the distances as their squares. -/
theorem sqrt_dist2_le_iff (c p q : Color) : √(dist2 c p : ℝ) ≤ √(dist2 c q : ℝ) ↔ dist2 c p ≤ dist2 c q := by
  rw [Real.sqrt_le_sqrt_iff (by exact_mod_cast dist2_nonneg c q), Int.cast_le]

/-- Settles O28: the choice depends on the order of the distances only. -/
theorem squareRootChoosesTheSameEntry : Obligations.SquareRootChoosesTheSameEntry := by
  unfold Obligations.SquareRootChoosesTheSameEntry
  intro distance c k
  have root (p : Color) : distance c p = √(dist2 c p : ℝ) := congrArg Real.sqrt (dist2_cast c p).symm
  rw [nearest_eq_iff]
  refine leastMinimizer_congr (g := fun j => distance c (pal j)) (fun i j => ?_) k
  rw [root, root, sqrt_dist2_le_iff]

/-! ### QPIX (R114, R115, R117) -/

@[simp] theorem pixColor_qpix (p : Word) : pixColor (qpix p) = pal (nearest (pixColor p)) := pixColor_mkPixel _ _

@[simp] theorem pixA_qpix (p : Word) : pixA (qpix p) = pixA p := pixA_mkPixel _ _

/-- Settles O29: the fields of the pixel word that QPIX puts together. -/
theorem qpixReplacesColorKeepsAlpha : Obligations.QpixReplacesColorKeepsAlpha :=
  fun p => ⟨pixColor_qpix p, pixA_qpix p⟩

theorem pal_injective {j k : Fin 4} (h : pal j = pal k) : j = k := paletteTable.2 j k h

/-- A palette colour is at distance 0 from its own entry, and from no other. -/
theorem nearest_pal (k : Fin 4) : nearest (pal k) = k := by
  rw [nearest_eq_iff]
  refine ⟨fun j => ?_, fun j below => ?_⟩
  · simpa using dist2_nonneg (pal k) (pal j)
  · have apart : dist2 (pal k) (pal j) ≠ 0 := fun zero =>
      below.ne' (pal_injective ((dist2_eq_zero_iff (pal k) (pal j)).1 zero))
    simpa using (dist2_nonneg (pal k) (pal j)).lt_of_ne' apart

/-- QPIX leaves a pixel of a palette colour as it is, bit for bit. -/
theorem qpix_of_palette {p : Word} {k : Fin 4} (h : pixColor p = pal k) : qpix p = p := by
  rw [qpix, h, nearest_pal, ← h, mkPixel_fields]

/-- Settles O30: QPIX gives a palette colour, and leaves palette colours alone. -/
theorem quantizationLaws : Obligations.QuantizationLaws :=
  ⟨nearest_pal, fun p => qpix_of_palette (pixColor_qpix p), fun p => ⟨_, pixColor_qpix p⟩⟩

/-! ### Ties (R118) -/

section Bisectors

variable (c : Color)

/-! The squares of c's own channels cancel between two distances, so that two entries are compared by a linear form in the
channels. -/

theorem dist2_pal_one : dist2 c (pal 1) = dist2 c (pal 0) + 32 * ((c.r.toNat : Int) + c.g.toNat - 327) := by
  simp only [dist2, pal, BitVec.toNat_ofNat]
  push_cast
  ring

theorem dist2_pal_two :
    dist2 c (pal 2) = dist2 c (pal 0) + 2 * (107 * (c.r.toNat : Int) + 90 * c.g.toNat - 33 * c.b.toNat - 22691) := by
  simp only [dist2, pal, BitVec.toNat_ofNat]
  push_cast
  ring

theorem dist2_pal_three :
    dist2 c (pal 3) = dist2 c (pal 0) + 8 * (35 * (c.r.toNat : Int) + 33 * c.g.toNat - 7001) := by
  simp only [dist2, pal, BitVec.toNat_ofNat]
  push_cast
  ring

end Bisectors

/-- The entries at the minimum distance from a colour (R113, R118). -/
def tiedEntries (c : Color) : Finset (Fin 4) := Finset.univ.filter fun k => ∀ j, dist2 c (pal k) ≤ dist2 c (pal j)

theorem mem_tiedEntries {c : Color} {k : Fin 4} : k ∈ tiedEntries c ↔ ∀ j, dist2 c (pal k) ≤ dist2 c (pal j) := by
  simp [tiedEntries]

theorem forall_entry {P : Fin 4 → Prop} : (∀ k, P k) ↔ P 0 ∧ P 1 ∧ P 2 ∧ P 3 := by
  simp [Fin.forall_fin_succ]

section Regions

variable (c : Color)

/-! The colours that have an entry at the minimum are bounded by the planes between it and the other entries. -/

theorem zero_mem_tiedEntries : 0 ∈ tiedEntries c ↔
    327 ≤ c.r.toNat + c.g.toNat ∧ 22691 + 33 * c.b.toNat ≤ 107 * c.r.toNat + 90 * c.g.toNat := by
  simp only [mem_tiedEntries, forall_entry, dist2_pal_one, dist2_pal_two, dist2_pal_three]
  omega

theorem one_mem_tiedEntries : 1 ∈ tiedEntries c ↔
    c.r.toNat + c.g.toNat ≤ 327 ∧ 17459 + 33 * c.b.toNat ≤ 91 * c.r.toNat + 74 * c.g.toNat ∧
      5693 ≤ 31 * c.r.toNat + 29 * c.g.toNat := by
  simp only [mem_tiedEntries, forall_entry, dist2_pal_one, dist2_pal_two, dist2_pal_three]
  omega

theorem two_mem_tiedEntries : 2 ∈ tiedEntries c ↔
    107 * c.r.toNat + 90 * c.g.toNat ≤ 22691 + 33 * c.b.toNat ∧
      91 * c.r.toNat + 74 * c.g.toNat ≤ 17459 + 33 * c.b.toNat ∧
      1771 ≤ 11 * c.r.toNat + 14 * c.g.toNat + 11 * c.b.toNat := by
  simp only [mem_tiedEntries, forall_entry, dist2_pal_one, dist2_pal_two, dist2_pal_three]
  omega

theorem three_mem_tiedEntries : 3 ∈ tiedEntries c ↔
    35 * c.r.toNat + 33 * c.g.toNat ≤ 7001 ∧ 31 * c.r.toNat + 29 * c.g.toNat ≤ 5693 ∧
      11 * c.r.toNat + 14 * c.g.toNat + 11 * c.b.toNat ≤ 1771 := by
  simp only [mem_tiedEntries, forall_entry, dist2_pal_one, dist2_pal_two, dist2_pal_three]
  omega

end Regions

/-- Where entry 3 is at the minimum, entries 0 and 1 are strictly farther. -/
theorem not_tied_with_three {c : Color} (three : 3 ∈ tiedEntries c) : 0 ∉ tiedEntries c ∧ 1 ∉ tiedEntries c := by
  rw [zero_mem_tiedEntries, one_mem_tiedEntries]
  rw [three_mem_tiedEntries] at three
  omega

/-- The sets of two or more entries in which 3 stands neither with 0 nor with 1. -/
theorem tie_sets : ∀ tied : Finset (Fin 4), 2 ≤ tied.card → (3 ∈ tied → 0 ∉ tied ∧ 1 ∉ tied) →
    tied = {0, 1} ∨ tied = {1, 2} ∨ tied = {2, 3} ∨ tied = {0, 2} ∨ tied = {0, 1, 2} := by
  decide

/-- The channels of a tie of entries 0 and 2, by the excess e of r + g over 327, have two solutions. -/
theorem tie_channels {e r b : Nat} (redGe : 72 + e ≤ r) (blueLt : b < 256) (tie : 17 * r + 90 * e + 6739 = 33 * b) :
    e = 2 ∧ r = 88 ∧ b = 255 ∨ e = 0 ∧ r = 85 ∧ b = 248 := by
  have small : e ≤ 4 := by omega
  interval_cases e <;> omega

/-- Entries 0 and 2 tie at the minimum at two points of the colour cube. -/
theorem tied_zero_two {c : Color} (zero : 0 ∈ tiedEntries c) (two : 2 ∈ tiedEntries c) :
    c = ⟨88#8, 241#8, 255#8⟩ ∨ c = ⟨85#8, 242#8, 248#8⟩ := by
  obtain ⟨sumGe, zeroLe⟩ := (zero_mem_tiedEntries c).1 zero
  obtain ⟨twoLe, -, -⟩ := (two_mem_tiedEntries c).1 two
  obtain ⟨e, sum⟩ := Nat.exists_eq_add_of_le sumGe
  have greenLt := c.g.isLt
  have redGe : 72 + e ≤ c.r.toNat := by omega
  have tie : 17 * c.r.toNat + 90 * e + 6739 = 33 * c.b.toNat := by omega
  rcases tie_channels redGe c.b.isLt tie with ⟨rfl, red, blue⟩ | ⟨rfl, red, blue⟩
  · exact .inl (color_eq_of_toNat red (show c.g.toNat = 241 by omega) blue)
  · exact .inr (color_eq_of_toNat red (show c.g.toNat = 242 by omega) blue)

theorem tiedEntries_eq_zero_two_iff (c : Color) : tiedEntries c = {0, 2} ↔ c = ⟨88#8, 241#8, 255#8⟩ := by
  constructor
  · intro tied
    rcases tied_zero_two (c := c) (by simp [tied]) (by simp [tied]) with point | rfl
    · exact point
    · exact absurd tied (by decide)
  · rintro rfl
    decide

theorem tiedEntries_eq_zero_one_two_iff (c : Color) : tiedEntries c = {0, 1, 2} ↔ c = ⟨85#8, 242#8, 248#8⟩ := by
  constructor
  · intro tied
    rcases tied_zero_two (c := c) (by simp [tied]) (by simp [tied]) with rfl | point
    · exact absurd tied (by decide)
    · exact point
  · rintro rfl
    decide

/-- Settles O31: entry 3 ties with entry 2 only, which leaves five sets, and entries 0 and 2 tie at two points only. -/
theorem tiesOfThePalette : Obligations.TiesOfThePalette :=
  ⟨fun c several => tie_sets (tiedEntries c) several not_tied_with_three,
    ⟨⟨147#8, 180#8, 15#8⟩, by decide⟩, ⟨⟨6#8, 229#8, 1#8⟩, by decide⟩, ⟨⟨3#8, 121#8, 4#8⟩, by decide⟩,
    tiedEntries_eq_zero_two_iff, tiedEntries_eq_zero_one_two_iff⟩

/-! ### The checks of the commands that examine N (R181, R183, R184) -/

theorem dimsError_of_imageInvalid {s : State} (invalid : s.ImageInvalid) (pmax : Nat) :
    s.dimsError pmax true = some .invalidDimensions :=
  if_pos (invalid.imp_right (Or.imp_right fun mismatch => ⟨rfl, mismatch⟩))

theorem dimsError_of_tooLarge {s : State} {pmax : Nat} (valid : ¬ s.ImageInvalid) (large : s.TooLarge pmax) :
    s.dimsError pmax true = some .capacity :=
  (if_neg fun failed => valid (failed.imp_right (Or.imp_right And.right))).trans (if_pos large)

/-- A command whose checks fail raises the error they name. -/
theorem commandAt_of_dimsError {p : Platform} {i : Instr} {s : State} {e : ErrCode}
    (failed : s.dimsError p.pmax (examinesN i) = some e) : commandAt p i s = s.raise e := by
  rw [commandAt_eq_validated, State.validated, failed]

theorem exec_of_imageInvalid {i : Instr} (counts : examinesN i = true) {s : State} (invalid : s.ImageInvalid) :
    exec i s = .next { s with status := 1#32 } := by
  have failed := dimsError_of_imageInvalid invalid Config.platform.pmax
  rw [← counts] at failed
  rw [exec_eq, commandAt_of_dimsError failed, State.raise, State.finish, statusWord_invalidDimensions]

theorem exec_of_tooLarge {i : Instr} (counts : examinesN i = true) {s : State} (valid : ¬ s.ImageInvalid)
    (large : s.TooLarge Config.platform.pmax) : exec i s = .next { s with status := 2#32 } := by
  have failed := dimsError_of_tooLarge valid large
  rw [← counts] at failed
  rw [exec_eq, commandAt_of_dimsError failed, State.raise, State.finish, statusWord_capacity]

/-! ### QUANT (R120, R121) -/

/-- QUANT on dimensions that pass the checks. -/
theorem exec_quant_of_ready {s : State} (ready : s.ImageReady Config.platform.pmax) : exec .quant s = .next s.quantBody := by
  rw [exec_quant, quantAt_ready ready]

theorem State.quantBody_eq (s : State) :
    s.quantBody = { s with pout := quantLoop s.pinValue s.pixels s.pout, status := 0#32 } := by
  rw [State.quantBody, State.finish, statusWord_ok_false]

/-- The image in POUT is quantized, and POUT beyond it is as before. -/
theorem State.read_quantBody_pout (s : State) (i : Nat) :
    s.quantBody.pout.read i = if i < s.pixels then some (qpix (s.pinValue i)) else s.pout.read i :=
  read_quantLoop s.pinValue s.pixels s.pout i

theorem State.read_quantBody_pout_of_lt {s : State} {i : Nat} (h : i < s.pixels) :
    s.quantBody.pout.read i = some (qpix (s.pinValue i)) := by
  rw [State.read_quantBody_pout, if_pos h]

/-- Settles O9: the two errors of the checks, and the loop's writes. -/
theorem quantOutcome : Obligations.QuantOutcome := by
  refine fun s => ⟨exec_of_imageInvalid rfl, exec_of_tooLarge rfl, fun ready => ?_⟩
  refine ⟨s.quantBody, exec_quant_of_ready ready, s.quantBody_eq, fun i inside => State.read_quantBody_pout_of_lt inside,
    fun i p inside written => ?_, fun i outside => ?_⟩
  · rw [State.read_quantBody_pout_of_lt inside, State.pinValue_of_read written]
  · rw [State.read_quantBody_pout, if_neg outside.not_gt]

/-- Settles O20: QPIX leaves every pixel of the image as it is. -/
theorem quantizedImageIsUnchanged : Obligations.QuantizedImageIsUnchanged := by
  refine fun s ready quantized => ⟨s.quantBody, exec_quant_of_ready ready, fun j inside => ?_⟩
  obtain ⟨k, colour⟩ := quantized j inside
  rw [State.read_quantBody_pout_of_lt inside, qpix_of_palette colour]

/-- On dimensions that pass the checks of QUANT, N is the number of pixels. -/
theorem pixels_eq_count {s : State} {pmax : Nat} (ready : s.ImageReady pmax) : (s.pixels : Int) = i32 s.n := by
  obtain ⟨-, -, width, height, -⟩ := GridReady.dims ready.1
  rw [ready.2, State.pixels, Nat.cast_mul, width, height]

/-- Settles O21: the loop takes W and H through the number of pixels only, which is N for both shapes. -/
theorem quantIgnoresTheShape : Obligations.QuantIgnoresTheShape := by
  intro s w' h' ready ready'
  have samePixels : { s with w := w', h := h' }.pixels = s.pixels :=
    Int.ofNat_inj.1 ((pixels_eq_count ready').trans (pixels_eq_count ready).symm)
  refine ⟨s.quantBody, exec_quant_of_ready ready, ?_⟩
  rw [exec_quant_of_ready ready', State.quantBody_eq, samePixels, State.quantBody_eq]
  rfl

end Sys2Proof.Machine

/-! PROOFS. The statements of 41_tile_encoder.md: the exact match, the tile grid, the packed row, GRID, and ENC with its stream,
its padding and UNQ. -/

namespace Sys2Proof.Machine

/-! ### The exact match (R130) -/

theorem cidx_pal : ∀ k, cidx (pal k) = k := by
  decide

theorem cidx_of_ne_pal {c : Color} (unmatched : ∀ k, c ≠ pal k) : cidx c = 0 := by
  rw [cidx, (cidxMatch_eq_none c).2 unmatched, Option.getD_none]

/-- Settles O32: the scan finds each entry under its own number, and fails on every other colour. -/
theorem exactMatchOrZero : Obligations.ExactMatchOrZero :=
  ⟨cidx_pal, fun _ => cidx_of_ne_pal⟩

/-! ### The tile grid (R132) -/

/-- Rounding up by adding 7 before the division is the ceiling of the quotient. -/
theorem add_seven_div_eight_eq_ceil (n : Nat) : (((n + 7) / 8 : Nat) : ℤ) = ⌈(n : ℚ) / 8⌉ := by
  have quotient : ⌈(n : ℚ) / 8⌉ = -(-(n : ℤ) / 8) := mod_cast Rat.ceil_natCast_div_natCast n 8
  omega

/-- Settles O33: both sides of the grid round up. -/
theorem tileGridIsTheCeiling : Obligations.TileGridIsTheCeiling :=
  fun width height _ _ => ⟨add_seven_div_eight_eq_ceil width, add_seven_div_eight_eq_ceil height⟩

/-! ### The packed row (R134, R136, R137) -/

/-- Outside the image the index is 0. -/
theorem idxAt_of_outside (pin : Nat → Word) {width height x y : Nat} (outside : width ≤ x ∨ height ≤ y) :
    idxAt pin width height x y = 0 :=
  if_neg (by omega)

/-- A byte is the sum of its bits, counted by column from the most significant one. -/
theorem byte_toNat_eq_sum (b : Byte) :
    b.toNat = ∑ col ∈ Finset.range 8, (b.getLsbD (7 - col)).toNat * 2 ^ (7 - col) := by
  have small := b.isLt
  simp only [Finset.sum_range_succ, Finset.sum_range_zero, BitVec.getLsbD, Nat.toNat_testBit]
  omega

/-- Settles O35: a byte is the sum of its bits, and the bits of a packed row are those of the indices. -/
theorem packedRowBits : Obligations.PackedRowBits := by
  intro pin width height tx ty row index bytes
  have bits {col : Nat} (hcol : col < 8) := packRow_bits pin width height tx ty row hcol
  refine ⟨?_, ?_, fun col hcol => bits hcol⟩
  · rw [byte_toNat_eq_sum]
    refine Finset.sum_congr rfl fun col hcol => ?_
    rw [(bits (Finset.mem_range.1 hcol)).1, Nat.toNat_testBit, pow_zero, Nat.div_one]
  · rw [byte_toNat_eq_sum]
    refine Finset.sum_congr rfl fun col hcol => ?_
    rw [(bits (Finset.mem_range.1 hcol)).2, Nat.toNat_testBit, pow_one]

/-- Eight columns of one index: each plane is all ones or all zeros. -/
theorem loop_packCol_const : ∀ k : Fin 4, loop 8 (packCol k) (0#8, 0#8) =
    (if k.val % 2 = 1 then 0xFF#8 else 0x00#8, if k.val / 2 = 1 then 0xFF#8 else 0x00#8) := by
  decide

theorem packRow_const {pin : Nat → Word} {width height tx ty row : Nat} {k : Fin 4}
    (solid : ∀ col < 8, idxAt pin width height (8 * tx + col) (8 * ty + row) = k) :
    packRow pin width height tx ty row =
      (if k.val % 2 = 1 then 0xFF#8 else 0x00#8, if k.val / 2 = 1 then 0xFF#8 else 0x00#8) :=
  (loop_congr fun col hcol acc => congrArg (packCol · col acc) (solid col hcol)).trans (loop_packCol_const k)

/-! ### GRID and the result registers (R24, R139, R141, R142) -/

theorem dimsError_of_gridInvalid {s : State} (invalid : s.GridInvalid) (pmax : Nat) :
    s.dimsError pmax false = some .invalidDimensions :=
  if_pos (invalid.imp_right .inl)

theorem dimsError_grid_of_tooLarge {s : State} {pmax : Nat} (valid : ¬ s.GridInvalid) (large : s.TooLarge pmax) :
    s.dimsError pmax false = some .capacity :=
  (if_neg (by simpa using valid)).trans (if_pos large)

theorem exec_grid_of_gridInvalid {s : State} (invalid : s.GridInvalid) :
    exec .grid s = .next { s with status := 1#32 } := by
  have failed := dimsError_of_gridInvalid invalid Config.platform.pmax
  rw [exec_eq, commandAt_of_dimsError failed, State.raise, State.finish, statusWord_invalidDimensions]

theorem exec_grid_of_tooLarge {s : State} (valid : ¬ s.GridInvalid) (large : s.TooLarge Config.platform.pmax) :
    exec .grid s = .next { s with status := 2#32 } := by
  have failed := dimsError_grid_of_tooLarge valid large
  rw [exec_eq, commandAt_of_dimsError failed, State.raise, State.finish, statusWord_capacity]

/-- GRID on dimensions that pass its checks. -/
theorem exec_grid_of_ready {s : State} (ready : s.GridReady Config.platform.pmax) : exec .grid s = .next s.gridBody := by
  rw [exec_grid, gridAt_ready ready]

/-- GRID and ENC write the same words to the result registers. -/
theorem gridBody_registers_eq_encBody (s : State) :
    s.gridBody.tcx = s.encBody.tcx ∧ s.gridBody.tcy = s.encBody.tcy ∧ s.gridBody.tcnt = s.encBody.tcnt ∧
      s.gridBody.tsize = s.encBody.tsize :=
  ⟨rfl, rfl, rfl, rfl⟩

/-- TCY after ENC is the grid height as a number (R139). -/
theorem encBody_tcy_toNat {s : State} (ready : s.GridReady Config.platform.pmax) :
    s.encBody.tcy.toNat = (tgrid s.width s.height).2 := by
  obtain ⟨⟨-, tcy, -⟩, -⟩ := GridReady.registers ready rfl rfl
  exact tcy

/-- The four result registers after ENC, as numbers: nothing wraps (R139). -/
theorem encBody_registers {s : State} (ready : s.GridReady Config.platform.pmax) :
    s.encBody.tcx.toNat = (s.width + 7) / 8 ∧ s.encBody.tcy.toNat = (s.height + 7) / 8 ∧
      s.encBody.tcnt.toNat = s.encBody.tcx.toNat * s.encBody.tcy.toNat ∧
      s.encBody.tsize.toNat = s.encBody.tcnt.toNat * 16 := by
  obtain ⟨⟨tcx, tcy, tcnt, tsize⟩, -⟩ := GridReady.registers ready rfl rfl
  refine ⟨tcx, tcy, ?_, ?_⟩
  · rw [encBody_tcx_toNat ready, encBody_tcy_toNat ready]
    exact tcnt
  · exact tsize.trans (congrArg (· * 16) tcnt.symm)

/-- What GRID leaves as it is. -/
theorem State.gridBody_eq (s : State) :
    s.gridBody =
      { s with
        tcx := s.gridBody.tcx, tcy := s.gridBody.tcy, tcnt := s.gridBody.tcnt, tsize := s.gridBody.tsize, status := 0#32 } := by
  rw [State.gridBody, State.finish, statusWord_ok_false]
  rfl

/-- Settles O10: the two errors of the checks that do not examine N, and the result registers of ENC. -/
theorem gridOutcome : Obligations.GridOutcome := by
  refine fun s => ⟨exec_grid_of_gridInvalid, exec_grid_of_tooLarge, fun ready => ?_⟩
  refine ⟨s.gridBody, exec_grid_of_ready ready, s.gridBody_eq, ?_⟩
  obtain ⟨tcx, tcy, tcnt, tsize⟩ := gridBody_registers_eq_encBody s
  rw [tcx, tcy, tcnt, tsize]
  exact encBody_registers ready

/-- Settles O22: dimensions that ENC accepts GRID accepts, and both write one grid. -/
theorem gridForetellsEnc : Obligations.GridForetellsEnc := fun s ready =>
  ⟨s.gridBody, s.encBody, exec_grid_of_ready ready.1, exec_enc_of_ready ready, gridBody_registers_eq_encBody s⟩

/-! ### ENC and its stream (R90, R138, R143) -/

/-- The tile memory after ENC: the stream below TSIZE, and what it held before from there on. -/
theorem read_encBody_tout {s : State} (ready : s.GridReady Config.platform.pmax) (k : Nat) :
    s.encBody.tout.read k = if k < s.encBody.tsize.toNat
      then some (streamByte s.pinValue s.width s.height s.encBody.tcx.toNat k) else s.tout.read k := by
  obtain ⟨-, -, tcnt, tsize⟩ := encBody_registers ready
  have length : s.encBody.tsize.toNat = 16 * ((tgrid s.width s.height).2 * (tgrid s.width s.height).1) := by
    rw [tsize, tcnt, encBody_tcx_toNat ready, encBody_tcy_toNat ready]
    ring
  rw [length, encBody_tcx_toNat ready, State.encBody_tout, read_encLoop]

/-- What ENC leaves as it is. -/
theorem State.encBody_eq (s : State) :
    s.encBody =
      { s with
        tout := s.encBody.tout
        tcx := s.encBody.tcx, tcy := s.encBody.tcy, tcnt := s.encBody.tcnt, tsize := s.encBody.tsize
        status := s.encBody.status } := rfl

/-- Settles O11: the two errors of the checks, and below TSIZE the stream. -/
theorem encOutcome : Obligations.EncOutcome := by
  refine fun s => ⟨exec_of_imageInvalid rfl, exec_of_tooLarge rfl, fun ready => ?_⟩
  obtain ⟨tcx, tcy, tcnt, tsize⟩ := encBody_registers ready.1
  refine ⟨s.encBody, exec_enc_of_ready ready, s.encBody_eq, State.finish_err _ _ _, tcx, tcy, tcnt, tsize,
    fun k inside => ?_, fun k outside => ?_⟩
  · rw [read_encBody_tout ready.1, if_pos inside, Option.isSome_some]
  · rw [read_encBody_tout ready.1, if_neg outside.not_gt]

/-- Settles O12: the loop nest emits the closed form, and each row's pair stands where R90 puts it. -/
theorem streamHasClosedForm : Obligations.StreamHasClosedForm := by
  refine fun s ready => ⟨s.encBody, exec_enc_of_ready ready, fun k inside => ?_, fun tx ty r hx hy hr => ?_⟩
  · rw [read_encBody_tout ready.1, if_pos inside]
    rfl
  · rw [encBody_tcx_toNat ready.1] at hx ⊢
    rw [encBody_tcy_toNat ready.1] at hy
    exact read_encLoop_at s.pinValue s.width s.height s.tout hx hy hr

/-- Settles O15: the index outside the image is 0, and so are both of its bits. -/
theorem paddingIsZeroInBothPlanes : Obligations.PaddingIsZeroInBothPlanes := by
  refine fun s ready => ⟨s.encBody, exec_enc_of_ready ready, fun tx ty row col hx hy hrow hcol outside => ?_⟩
  rw [encBody_tcx_toNat ready.1] at hx ⊢
  rw [encBody_tcy_toNat ready.1] at hy
  obtain ⟨lo, hi⟩ := encBody_toutValue s hx hy hrow
  obtain ⟨bit0, bit1⟩ := packRow_bits s.pinValue s.width s.height tx ty row hcol
  rw [lo, hi, bit0, bit1, idxAt_of_outside s.pinValue outside]
  exact ⟨rfl, rfl⟩

/-! ### UNQ, and what ENC reads (R87, R144, R145) -/

theorem State.encBody_status (s : State) : s.encBody.status = statusWord .ok (unqOf s.pinValue s.width s.height) := rfl

/-- Where every pixel of the image equals a palette entry, UNQ is 0. -/
theorem unqOf_of_quantized {pin : Nat → Word} {width height : Nat}
    (quantized : ∀ x y, x < width → y < height → ∃ k, pixColor (pin (y * width + x)) = pal k) :
    unqOf pin width height = false := by
  refine Bool.eq_false_iff.2 fun reported => ?_
  obtain ⟨y, hy, x, hx, unmatched⟩ := (unqOf_iff pin width height).1 reported
  obtain ⟨k, matched⟩ := quantized x y hx hy
  exact unmatched k matched

/-- Settles O14: UNQ is set exactly on the images with an unmatched pixel, and STATUS is the word of OK with UNQ. -/
theorem unqReportsUnquantizedPixels : Obligations.UnqReportsUnquantizedPixels := by
  refine fun s ready => ⟨s.encBody, exec_enc_of_ready ready, fun ⟨x, y, hx, hy, unmatched⟩ => ?_, fun quantized => ?_⟩
  · rw [State.encBody_status, (unqOf_iff s.pinValue s.width s.height).2 ⟨y, hy, x, hx, unmatched⟩, statusWord_ok_true]
  · rw [State.encBody_status, unqOf_of_quantized quantized, statusWord_ok_false]

/-- The body of ENC reads the colours of the image only. -/
theorem encBody_pin {s : State} {m : Memory 32}
    (colours : ∀ j < s.pixels, pixColor ({ s with pin := m }.pinValue j) = pixColor (s.pinValue j)) :
    { s with pin := m }.encBody = { s.encBody with pin := m } := by
  have stream : { s with pin := m }.encBody.tout = s.encBody.tout := congrArg Prod.snd (encLoop_congr colours _ _ s.tout)
  have status : { s with pin := m }.encBody.status = s.encBody.status := congrArg (statusWord .ok) (unqOf_congr colours)
  rw [State.encBody_eq { s with pin := m }, stream, status]
  rfl

/-- Settles O16: the checks do not read PIN, and the body reads its colours only. -/
theorem alphaNeverReachesTheTiles : Obligations.AlphaNeverReachesTheTiles := by
  intro s m ready colours
  refine ⟨s.encBody, exec_enc_of_ready ready, ?_⟩
  rw [exec_enc_of_ready (s := { s with pin := m }) ready, encBody_pin colours]

/-! ### One tile of one colour (R136, C2) -/

/-- An 8 by 8 image passes the checks wherever 64 pixels fit. -/
theorem imageReady_eight {p : Platform} {s : State} (fits : 64 ≤ p.pmax) (w : s.w = 8#32) (h : s.h = 8#32)
    (n : s.n = 64#32) : s.ImageReady p.pmax := by
  have side : i32 8#32 = 8 := rfl
  have count : i32 64#32 = 64 := rfl
  rw [State.ImageReady, State.GridReady, w, h, n, side, count]
  omega

theorem tgrid_eight : tgrid 8 8 = (1, 1) := rfl

/-- Settles O24: the one tile of the image has the same index at each of its positions. -/
theorem solidTileBytes : Obligations.SolidTileBytes := by
  intro p s k fits w h n solid
  have width : s.width = 8 := congrArg (fun v => (i32 v).toNat) w
  have height : s.height = 8 := congrArg (fun v => (i32 v).toNat) h
  have colour {x y : Nat} (hx : x < 8) (hy : y < 8) : pixColor (s.pinValue (y * 8 + x)) = pal k :=
    solid _ (pixelIndex_lt hx hy)
  refine ⟨s.encBody, ?_, ?_, ?_, fun r hr => ?_⟩
  · exact (execAt_eq p .enc s).trans (congrArg Host.Outcome.next (encAt_ready (imageReady_eight fits w h n)))
  · rw [State.encBody, width, height]
    rfl
  · rw [State.encBody_status, width, height, unqOf_of_quantized fun x y hx hy => ⟨k, colour hx hy⟩, statusWord_ok_false]
  · have row : packRow s.pinValue 8 8 0 0 r = _ := packRow_const fun col hcol => by
      rw [Nat.mul_zero, Nat.zero_add, Nat.zero_add, idxAt_of_inBounds s.pinValue hcol hr, colour hcol hr, cidx_pal]
    have pair := read_encLoop_at s.pinValue 8 8 s.tout (show 0 < 1 by decide) (show 0 < 1 by decide) hr
    rw [row] at pair
    rw [State.encBody_tout, width, height, tgrid_eight]
    simpa using pair

end Sys2Proof.Machine

/-! PROOFS. The statements of 42_host_listing.md: the sanitisation of the base name and the lines of the array body. -/

namespace Sys2Proof.Machine

/-! ### The sanitisation (R162) -/

/-- The codes that `keptChar` tests are those of the ASCII letters, the digits and the underscore. -/
theorem keptChar_iff (c : Char) :
    keptChar c = true ↔ ('A' ≤ c ∧ c ≤ 'Z') ∨ ('a' ≤ c ∧ c ≤ 'z') ∨ ('0' ≤ c ∧ c ≤ '9') ∨ c = '_' := by
  have underscore : c.toNat = 95 ↔ c = '_' := Char.toNat_inj (d := '_')
  simp only [keptChar, Bool.or_eq_true, Bool.and_eq_true, decide_eq_true_eq, or_assoc, underscore]
  rfl

theorem length_sanitize (name : Text) : (sanitize name).length = name.length :=
  List.length_map _

theorem sanitize_getElem? {name : Text} {j : Nat} {c : Char} (h : name[j]? = some c) :
    (sanitize name)[j]? = some (if keptChar c then c else '_') := by
  rw [sanitize, List.getElem?_map, h, Option.map_some]

/-- Settles O50: `sanitize` maps each character by the test of `keptChar`. -/
theorem sanitizeActsCharacterwise : Obligations.SanitizeActsCharacterwise := by
  refine fun name => ⟨length_sanitize name, fun j c present => ⟨fun kept => ?_, fun replaced => ?_⟩⟩
  · rw [sanitize_getElem? present, if_pos ((keptChar_iff c).2 kept)]
  · rw [sanitize_getElem? present, if_neg (mt (keptChar_iff c).1 replaced)]

/-! ### The lines of the array body (R165) -/

@[simp] theorem linesOf8_nil (fuel : Nat) : linesOf8 fuel [] = [] := by
  cases fuel with
  | zero => rfl
  | succ f => exact if_pos rfl

theorem linesOf8_succ_of_ne_nil (f : Nat) {bytes : List Byte} (h : bytes ≠ []) :
    linesOf8 (f + 1) bytes = bytes.take 8 :: linesOf8 f (bytes.drop 8) :=
  if_neg h

/-- The lines hold the bytes in order, as soon as there is fuel for all of them. -/
theorem flatten_linesOf8 {fuel : Nat} {bytes : List Byte} (enough : bytes.length ≤ 8 * fuel) :
    (linesOf8 fuel bytes).flatten = bytes := by
  induction fuel generalizing bytes with
  | zero => exact (List.eq_nil_of_length_eq_zero (Nat.le_zero.1 enough)).symm
  | succ f ih =>
    by_cases empty : bytes = []
    · rw [empty, linesOf8_nil, List.flatten_nil]
    · have rest : (bytes.drop 8).length ≤ 8 * f := by rw [List.length_drop]; omega
      rw [linesOf8_succ_of_ne_nil f empty, List.flatten_cons, ih rest, List.take_append_drop]

/-- A multiple of 8 bytes is cut into full lines only: each line takes 8 bytes off and leaves a multiple of 8. -/
theorem linesOf8_full {fuel m : Nat} {bytes : List Byte} (whole : bytes.length = 8 * m) (enough : m ≤ fuel) :
    (linesOf8 fuel bytes).length = m ∧ ∀ l ∈ linesOf8 fuel bytes, l.length = 8 := by
  induction m generalizing fuel bytes with
  | zero => simp [List.eq_nil_of_length_eq_zero whole]
  | succ m ih =>
    obtain ⟨f, rfl⟩ := Nat.exists_eq_add_of_lt enough
    have nonempty : bytes ≠ [] := List.ne_nil_of_length_pos (by omega)
    have first : (bytes.take 8).length = 8 := by rw [List.length_take]; omega
    have rest : (bytes.drop 8).length = 8 * m := by rw [List.length_drop]; omega
    obtain ⟨count, full⟩ := ih rest (Nat.le_add_right m f)
    rw [linesOf8_succ_of_ne_nil _ nonempty]
    exact ⟨congrArg (· + 1) count, List.forall_mem_cons.2 ⟨first, full⟩⟩

/-- Settles O51: a tile is 16 bytes, so the n tiles are 2n times 8 bytes, and the fuel is one line per byte. -/
theorem listingLinesHoldEightValues : Obligations.ListingLinesHoldEightValues := by
  intro bytes n whole
  have lines : bytes.length = 8 * (2 * n) := by omega
  obtain ⟨count, full⟩ := linesOf8_full lines (fuel := bytes.length) (by omega)
  exact ⟨count, full, flatten_linesOf8 (by omega)⟩

end Sys2Proof.Machine

/-! PROOFS. The statements of 60_exceptions.md: which error a command word reports, what an error writes, and how the accesses
outside the interface are refused. -/

namespace Sys2Proof.Machine

/-! ### A write of CMD as one step (R60, R81, R84) -/

/-- Everything the step at a write of CMD can do: run the command whose word was written, or raise ILLEGAL_CMD. -/
theorem step_regWrite_cmd_cases {s : State} {v : Word} {rest : List Event} (script : s.script = .host (.regWrite 0 v) :: rest) :
    (∃ i, v = encode i ∧ step s = .next (commandAt Config.platform i (s.advance rest))) ∨
    ((∀ i, v ≠ encode i) ∧ step s = .next ((s.advance rest).raise .illegalCmd)) := by
  have issued : step s = issueCommand exec v (s.advance rest) := step_host script
  rw [issued]
  rcases issueCommand_cases exec v (s.advance rest) with ⟨i, decoded, ran⟩ | ⟨e, rejected, raised⟩
  · exact .inl ⟨i, eq_encode_of_decode decoded, ran.trans (exec_eq i _)⟩
  · exact .inr ⟨(decode_error_iff v).1 ⟨e, rejected⟩, raised⟩

/-! ### The order of the checks (R184) -/

/-- A command that has passed its checks leaves ERR at OK (R25). -/
theorem commandBody_err (i : Instr) (s : State) : (commandBody i s).err = 0#2 := by
  cases i <;> exact State.finish_err _ .ok _

theorem commandAt_of_passed {p : Platform} {i : Instr} {s : State} (passed : s.dimsError p.pmax (examinesN i) = none) :
    commandAt p i s = commandBody i s := by
  rw [commandAt_eq_validated, State.validated, passed]

theorem dimsError_of_image_passed {s : State} {pmax : Nat} (valid : ¬ s.ImageInvalid) (fits : ¬ s.TooLarge pmax) :
    s.dimsError pmax true = none :=
  (if_neg fun failed => valid (failed.imp_right (Or.imp_right And.right))).trans (if_neg fits)

theorem dimsError_of_grid_passed {s : State} {pmax : Nat} (valid : ¬ s.GridInvalid) (fits : ¬ s.TooLarge pmax) :
    s.dimsError pmax false = none :=
  (if_neg (by simpa using valid)).trans (if_neg fits)

/-- The verdict of the checks in STATUS: INVALID_DIMENSIONS before CAPACITY, and OK where both pass (R184). -/
def ReportsFirstFailure (invalid tooLarge : Prop) (t : State) : Prop :=
  (invalid → t.status = 1#32) ∧ (¬ invalid → tooLarge → t.status = 2#32) ∧ (¬ invalid → ¬ tooLarge → t.err = 0#2)

/-- A command reports its checks, whether or not they count N. -/
theorem commandAt_reports {p : Platform} {i : Instr} {s : State} {invalid tooLarge : Prop}
    (first : invalid → s.dimsError p.pmax (examinesN i) = some .invalidDimensions)
    (second : ¬ invalid → tooLarge → s.dimsError p.pmax (examinesN i) = some .capacity)
    (passed : ¬ invalid → ¬ tooLarge → s.dimsError p.pmax (examinesN i) = none) :
    ReportsFirstFailure invalid tooLarge (commandAt p i s) := by
  refine ⟨fun fails => ?_, fun valid large => ?_, fun valid fits => ?_⟩
  · rw [commandAt_of_dimsError (first fails), State.raise_status, statusWord_invalidDimensions]
  · rw [commandAt_of_dimsError (second valid large), State.raise_status, statusWord_capacity]
  · rw [commandAt_of_passed (passed valid fits), commandBody_err]

/-- QUANT and ENC: N counts (R181). -/
theorem commandAt_reports_image {i : Instr} (counts : examinesN i = true) (p : Platform) (s : State) :
    ReportsFirstFailure s.ImageInvalid (s.TooLarge p.pmax) (commandAt p i s) := by
  apply commandAt_reports <;> rw [counts]
  · exact fun invalid => dimsError_of_imageInvalid invalid p.pmax
  · exact dimsError_of_tooLarge
  · exact dimsError_of_image_passed

/-- GRID: N does not count (R181). -/
theorem commandAt_reports_grid (p : Platform) (s : State) :
    ReportsFirstFailure s.GridInvalid (s.TooLarge p.pmax) (commandAt p .grid s) :=
  commandAt_reports (fun invalid => dimsError_of_gridInvalid invalid p.pmax) dimsError_grid_of_tooLarge
    dimsError_of_grid_passed

/-- Settles O5: a command's word runs the command, whose checks read what the event left as it was, and every other word raises
ILLEGAL_CMD without a check. -/
theorem firstFailingCheckIsReported : Obligations.FirstFailingCheckIsReported := by
  intro s v rest script
  rcases step_regWrite_cmd_cases script with ⟨i, rfl, ran⟩ | ⟨reserved, raised⟩
  · refine ⟨_, ran, ?_⟩
    cases i with
    | quant =>
      exact ⟨fun ne1 _ _ => absurd rfl ne1, fun _ => commandAt_reports_image rfl Config.platform (s.advance rest),
        fun is2 => absurd is2 (by decide)⟩
    | grid =>
      exact ⟨fun _ ne2 _ => absurd rfl ne2, fun is1or3 => absurd is1or3 (by decide),
        fun _ => commandAt_reports_grid Config.platform (s.advance rest)⟩
    | enc =>
      exact ⟨fun _ _ ne3 => absurd rfl ne3, fun _ => commandAt_reports_image rfl Config.platform (s.advance rest),
        fun is2 => absurd is2 (by decide)⟩
  · refine ⟨_, raised, fun _ _ _ => statusWord_illegalCmd, fun is1or3 => ?_, fun is2 => absurd is2 (reserved .grid)⟩
    exact (is1or3.elim (reserved .quant) (reserved .enc)).elim

/-! ### What an error writes (R61, R185) -/

/-- The STATUS word of an error is its code: UNQ and every reserved bit are 0 (R25). -/
theorem statusWord_false_eq_setWidth (e : ErrCode) : statusWord e false = e.code.setWidth 32 := by
  cases e <;> decide

/-- Raising an error writes the STATUS word of its code, and nothing else. -/
theorem State.raise_eq (s : State) (e : ErrCode) : s.raise e = { s with status := (s.raise e).err.setWidth 32 } := by
  rw [State.raise_err, ← statusWord_false_eq_setWidth, State.raise, State.finish]

/-- A command that leaves ERR not 0 has not run its body. -/
theorem commandAt_raises_of_err_ne_zero {p : Platform} {i : Instr} {s : State} (failed : (commandAt p i s).err ≠ 0#2) :
    ∃ e, commandAt p i s = s.raise e := by
  rcases commandAt_cases p i s with raised | ⟨-, ran⟩
  · exact raised
  · rw [ran, commandBody_err] at failed
    exact absurd rfl failed

/-- Settles O6: the step that leaves ERR not 0 has raised an error, whichever word was written. -/
theorem errorWritesOnlyStatus : Obligations.ErrorWritesOnlyStatus := by
  intro s t v rest script stepped failed
  have raised : ∃ e, t = (s.advance rest).raise e := by
    rcases step_regWrite_cmd_cases script with ⟨i, -, ran⟩ | ⟨-, illegal⟩
    · rw [ran] at stepped
      cases stepped
      exact commandAt_raises_of_err_ne_zero failed
    · rw [illegal] at stepped
      cases stepped
      exact ⟨.illegalCmd, rfl⟩
  obtain ⟨e, rfl⟩ := raised
  exact (s.advance rest).raise_eq e

/-! ### The accesses outside the interface (R21, R51, R189, U8) -/

theorem readRegister_cmd (s : State) : readRegister 0 s = .refused .readOfCmd := rfl

theorem readRegister_of_nine_le {n : Nat} (h : 9 ≤ n) (s : State) : readRegister n s = .refused (.noSuchRegister n) := by
  obtain ⟨k, rfl⟩ := Nat.exists_eq_add_of_le' h
  rfl

theorem writeRegister_of_nine_le {n : Nat} (h : 9 ≤ n) (run : Instr → State → Result) (v : Word) (s : State) :
    writeRegister run n v s = .refused (.noSuchRegister n) := by
  obtain ⟨k, rfl⟩ := Nat.exists_eq_add_of_le' h
  rfl

/-- STATUS, and TCX to TSIZE, are read-only to the host (R21). -/
theorem writeRegister_of_readOnly {n : Nat} (h : n = 1 ∨ 5 ≤ n ∧ n ≤ 8) (run : Instr → State → Result) (v : Word)
    (s : State) : writeRegister run n v s = .refused (.writeOfReadOnly n) := by
  rcases h with rfl | ⟨h5, h8⟩
  · rfl
  · interval_cases n <;> rfl

/-- Settles O41: the step at a host access performs it, and each access is past the end of its space or of a kind that the
space does not have. -/
theorem outsideAccessesStopByName : Obligations.OutsideAccessesStopByName := by
  intro s rest
  refine ⟨fun script => ?readCmd, fun n v readOnly script => ?writeReadOnly, fun n v outside script => ?writeNoRegister,
    fun n outside script => ?readNoRegister, fun i v outside script => ?pinWrite, fun i outside script => ?pinRead,
    fun i outside script => ?poutRead, fun k outside script => ?toutRead, fun i v inRange script => ?poutWriteInRange,
    fun i v outside script => ?poutWriteOutside, fun k b inRange script => ?toutWriteInRange,
    fun k b outside script => ?toutWriteOutside⟩
  all_goals rw [step_host script]
  case readCmd => exact readRegister_cmd (s.advance rest)
  case writeReadOnly => exact writeRegister_of_readOnly readOnly exec v _
  case writeNoRegister => exact writeRegister_of_nine_le outside exec v _
  case readNoRegister => exact readRegister_of_nine_le outside _
  case pinWrite => exact writePin_of_le outside v _
  case poutWriteInRange | toutWriteInRange => exact if_pos inRange
  case pinRead | poutRead | toutRead | poutWriteOutside | toutWriteOutside => exact if_neg outside.not_gt

end Sys2Proof.Machine

/-! PROOFS. The statements of 70_reset_and_hazards.md: reset, the step without an event, and what a free value of unwritten
storage can reach. -/

namespace Sys2Proof.Machine

/-! ### The reset event, and no event (R210, R211, R220) -/

/-- Settles O46: reset takes the script and the number from the state that has taken the event out of the script. -/
theorem resetEventRestoresReset : Obligations.ResetEventRestoresReset := by
  intro s rest script
  calc step s = performEvent Config.platform exec .reset (s.advance rest) := step_cons script
    _ = .next (s.advance rest).applyReset := rfl
    _ = .next { State.reset with script := rest, replies := s.replies, serial := s.serial + 1 } := rfl

/-- Settles O47: there is no event to perform. -/
theorem nothingMovesWithoutAnEvent : Obligations.NothingMovesWithoutAnEvent :=
  fun _ idle => step_nil idle

/-! ### The free values of unwritten storage (R213, R220) -/

/-- On an image written whole, the words of PIN that a command reads are the host's, whichever free values are selected. -/
theorem State.PixelsWritten.pinValue_serial {s : State} (written : s.PixelsWritten) (k : Nat) :
    ∀ j < s.pixels, { s with serial := k }.pinValue j = s.pinValue j := by
  intro j inside
  obtain ⟨v, read⟩ := Option.isSome_iff_exists.1 (written j inside)
  rw [State.pinValue_of_read read, State.pinValue_of_read (s := { s with serial := k }) read]

/-- The number reaches the body of ENC through the colours of the image only. -/
theorem encBody_serial {s : State} {k : Nat}
    (colours : ∀ j < s.pixels, pixColor ({ s with serial := k }.pinValue j) = pixColor (s.pinValue j)) :
    { s with serial := k }.encBody = { s.encBody with serial := k } :=
  congrArg₂
    (fun (a : Nat × Memory 8) u =>
      ({ s with serial := k, tout := a.2 }.setGrid (tgrid s.width s.height).1 (tgrid s.width s.height).2).finish .ok u)
    (encLoop_congr colours (tgrid s.width s.height).1 (tgrid s.width s.height).2 s.tout) (unqOf_congr colours)

/-- The body reads PIN below W × H only, and no other storage that can be unwritten. -/
theorem commandBody_serial (i : Instr) {s : State} (written : s.PixelsWritten) (k : Nat) :
    commandBody i { s with serial := k } = { commandBody i s with serial := k } := by
  have words := written.pinValue_serial k
  cases i with
  | quant => exact congrArg (fun a => { s with serial := k, pout := a }.finish .ok false) (quantLoop_congr words s.pout)
  | grid => rfl
  | enc => exact encBody_serial fun j inside => congrArg pixColor (words j inside)

/-- Settles O18: the checks read W, H and N, and the body the written words of PIN. -/
theorem writtenImageLeavesNothingOpen : Obligations.WrittenImageLeavesNothingOpen := by
  intro i s k written
  refine ⟨commandAt Config.platform i s, exec_eq i s, ?_⟩
  rw [exec_eq]
  exact congrArg Host.Outcome.next (commandAt_rel (R := fun t t' => t' = { t with serial := k })
    (fun _ => rfl) (fun _ => rfl) (commandBody_serial i written k))

end Sys2Proof.Machine
